-- ==== Sys2Proof/Word.lean ====
section
/-! DEFINITION. The word and the wide value of the U128 CORE (00_scope.md R8, R9): a wide value is a pair of 64-bit words. -/

namespace Sys2Proof

/-- One 64-bit word (R5, R6 `WORD`). -/
abbrev Word := BitVec 64

/-- A wide value `(hi, lo)` (R9): `hi` is bits 127..64, `lo` is bits 63..0. Every bit pattern is legal. -/
structure Wide where
  hi : Word
  lo : Word
  deriving DecidableEq, Repr

namespace Wide

/-- `V(X) = X.hi · 2^64 + X.lo` (R9). Here and below a power of two stands first in a product with an open factor: the
kernel evaluates a product by its second factor. -/
def toNat (x : Wide) : Nat := 2 ^ 64 * x.hi.toNat + x.lo.toNat

/-- The wide value that denotes `n mod 2^128` (R9). -/
def ofNat (n : Nat) : Wide := ⟨BitVec.ofNat 64 (n / 2 ^ 64), BitVec.ofNat 64 n⟩

/-- The 128-bit concatenation `hi:lo` (R9). -/
def toBits (x : Wide) : BitVec 128 := x.hi ++ x.lo

/-- `0_128` (R8). -/
def zero : Wide := ⟨0, 0⟩

/-- The value 1, `(0, 1)` (R9). -/
def one : Wide := ⟨0, 1⟩

/-- `ONES_128 = 2^128 - 1` (R8). -/
def ones : Wide := ⟨BitVec.allOnes 64, BitVec.allOnes 64⟩

end Wide

end Sys2Proof
end

