-- ==== Sys2Proof/Machine/Flags.lean ====
section
/-! DEFINITION. The adder and the subtractor (41_additive_bitwise.md R100, R101), whose carry and borrow the flag C takes, and the flag F of the comparisons (R111 to R116) and of the truth value (40_conversion.md R82). -/

namespace Sys2Proof.Machine

/-- A 65-bit sum of two words and a carry in: its low word, and bit 64 (R100). -/
def add64 (x y : Word) (cin : Bool) : Word × Bool :=
  let t : BitVec 65 := x.setWidth 65 + y.setWidth 65 + (BitVec.ofBool cin).setWidth 65
  (t.setWidth 64, t.getLsbD 64)

/-- `add128(X, Y, cin)` (R100): the sum and the carry out of bit 127. -/
def add128 (x y : Wide) (cin : Bool) : Wide × Bool :=
  let l := add64 x.lo y.lo cin
  let h := add64 x.hi y.hi l.2
  (⟨h.1, l.1⟩, h.2)

/-- `sub128(X, Y)` (R101): the difference and the borrow out of bit 127. -/
def sub128 (x y : Wide) : Wide × Bool :=
  let b0 := decide (x.lo < y.lo)
  let b1 := decide (x.hi < y.hi) || (x.hi == y.hi && b0)
  (⟨x.hi - y.hi - (BitVec.ofBool b0).setWidth 64, x.lo - y.lo⟩, b1)

/-- F of EQ (R111): identity of both words. -/
def flagEq (a b : Wide) : Bool := a.hi == b.hi && a.lo == b.lo

/-- F of NE (R112). -/
def flagNe (a b : Wide) : Bool := !(a.hi == b.hi && a.lo == b.lo)

/-- F of LT (R113): `A - B` borrows. -/
def flagLt (a b : Wide) : Bool := (sub128 a b).2

/-- F of LE (R114): `B - A` does not borrow. -/
def flagLe (a b : Wide) : Bool := !(sub128 b a).2

/-- F of GT (R115): `B - A` borrows. -/
def flagGt (a b : Wide) : Bool := (sub128 b a).2

/-- F of GE (R116): `A - B` does not borrow. -/
def flagGe (a b : Wide) : Bool := !(sub128 a b).2

/-- F of TOBOOL (40_conversion.md R82): some word is not zero. -/
def flagTruth (a : Wide) : Bool := a.hi != 0 || a.lo != 0

end Sys2Proof.Machine
end

