-- ==== Sys2Proof/Config.lean ====
section
/-! DEFINITION. The ports of the block (10_state.md R29), what is fixed for the machine (00_scope.md R5, R6), and the parameters the spec leaves open (R7), each an uninterpreted constant. -/

/-! The ports of the block (10_state.md R29), but for `clk`: its rising edges are the steps of the clock view. -/

namespace Sys2Proof.Machine

/-- The input ports: what the host drives on them at one rising edge (R29). Not state of the block (R28, R33; log 3). -/
structure Pins where
  rst : Bool
  cmdValid : Bool
  cmd : BitVec 32
  dinHi : Word
  dinLo : Word
  deriving DecidableEq, Repr

/-- The output ports, each at its own width (R29). -/
structure Outputs where
  cmdReady : Bool
  doutHi : Word
  doutLo : Word
  status : BitVec 32
  done : Bool
  fault : Bool
  deriving DecidableEq, Repr

end Sys2Proof.Machine

namespace Sys2Proof.Config

/-- `NREG` (R6): the number of wide registers. -/
def nreg : Nat := 8

/-- The bound on iterations of any iterative operation (R5). -/
def maxIterations : Nat := 128

/-- The latency the implementation has, before the bounds of R7: a free function of the command word, the
latched DIN words and the operand values (70_reset_and_hazards.md R183: "It may depend on the command and on its operand values").
DESIGN CHOICE, log 6, safe: no value is known of it. -/
opaque latRaw : BitVec 32 → Word → Word → Option Wide → Option Wide → Nat

/-- `LAT_DIV_MAX - 1`, a free number (R7): the bound is finite and at least 1. -/
opaque latDivSlack : Nat

/-- `LAT_MAX - 1`, a free number (R7): the bound is finite and at least 1. -/
opaque latSlack : Nat

/-- `LAT_DIV_MAX` (R7): the bound on the latency of DIV, MOD and DIVMOD. -/
def latDivMax : Nat := latDivSlack + 1

/-- `LAT_MAX` (R7): the bound on every other latency. -/
def latMax : Nat := latSlack + 1

/-- `PLATFORM_IRQ` (R7, 60_exceptions.md R169): whether the platform raises an interrupt line, as a free function of
`done` and `fault`. DESIGN CHOICE, log 13, safe. -/
opaque platformIrq : Bool → Bool → Bool

/-- `PLATFORM_MAP`, reading (R7, 20_memory.md R44): what the platform shows at an address of its own, if it maps a port
there, as a free function of all the ports of 10_state.md R29. Where and how a port is mapped, its width and its place
in the word among it, is the platform's. That an access is of one 64-bit word is the model's: DESIGN CHOICE, log 13, safe. -/
opaque platformRead : Nat → Machine.Pins → Machine.Outputs → Option Word

/-- `PLATFORM_MAP`, writing (R7, 20_memory.md R44): what the input ports carry after a write to an address of the platform's
own, if it maps an input port there, as a free function. As above: DESIGN CHOICE, log 13, safe. -/
opaque platformWrite : Nat → Word → Machine.Pins → Option Machine.Pins

/-- `HOST_ARBITRATION` (R7, 20_memory.md R47): a free number for the arbiter's n-th grant.
DESIGN CHOICE, log 20, safe. -/
opaque hostArbitration : Nat → Nat

end Sys2Proof.Config
end

