-- ==== Sys2Proof/Syntax.lean ====
section
/-! DEFINITION. The commands of U128-CMD version 1 (30_encoding.md R52, R56): one constructor per row of the opcode table, holding exactly the fields the command uses. -/

namespace Sys2Proof

/-- An index of a wide register, W0 to W7 (10_state.md R21, 30_encoding.md R51). -/
abbrev Reg := Fin 8

/-- The native widths NW selects (30_encoding.md R53). -/
inductive NativeWidth where
  | w8
  | w16
  | w32
  | w64
  deriving DecidableEq, Repr

/-- A native type: the width of NW and the signedness of NS (R53). -/
structure NativeType where
  width : NativeWidth
  signed : Bool
  deriving DecidableEq, Repr

/-- An operand A or B (R55): a wide register (select bit 0), or the native operand on DIN_LO of the type NW and NS
give (select bit 1). NW and NS stand here because a command uses them for its operands only then (R56; log 9). -/
inductive Operand where
  | reg (r : Reg)
  | din (t : NativeType)
  deriving DecidableEq, Repr

/-- The commands (R52), with the operand order of the assembler forms (R61): destinations first. -/
inductive Instr where
  | mov (rd : Reg) (a : Operand)
  | pair (rd : Reg)
  | cvtf32 (rd : Reg)
  | cvtf64 (rd : Reg)
  | rdw (a : Operand)
  | trunc (t : NativeType) (a : Operand)
  | tof32 (a : Operand)
  | tof64 (a : Operand)
  | tobool (a : Operand)
  | add (rd : Reg) (a b : Operand)
  | sub (rd : Reg) (a b : Operand)
  | neg (rd : Reg) (a : Operand)
  | inc (rd : Reg) (a : Operand)
  | dec (rd : Reg) (a : Operand)
  | not (rd : Reg) (a : Operand)
  | and (rd : Reg) (a b : Operand)
  | or (rd : Reg) (a b : Operand)
  | xor (rd : Reg) (a b : Operand)
  | eq (a b : Operand)
  | ne (a b : Operand)
  | lt (a b : Operand)
  | le (a b : Operand)
  | gt (a b : Operand)
  | ge (a b : Operand)
  | mul (rd : Reg) (a b : Operand)
  | div (rd : Reg) (a b : Operand)
  | mod (rd : Reg) (a b : Operand)
  | divmod (rd re : Reg) (a b : Operand)
  | shl (rd : Reg) (a b : Operand)
  | shr (rd : Reg) (a b : Operand)
  deriving DecidableEq, Repr

end Sys2Proof
end

