-- ==== Sys2Proof/Machine/State.lean ====
section
/-! DEFINITION. The state of the block (10_state.md R20 to R33) as plain data, its reset (70_reset_and_hazards.md R180), the reasons a machine can stop, and what a command commits. -/

namespace Sys2Proof.Machine

/-- FCODE (10_state.md R26, 60_exceptions.md R160). The codes 4 to 15 are reserved and never produced (93 U5; log 18). -/
inductive FCode where
  | none
  | illegal
  | divZero
  | shiftRange
  deriving DecidableEq, Repr

/-- The fields of STATUS that hold something (R26). -/
structure Status where
  busy : Bool
  fault : Bool
  fcode : FCode
  /-- The flag F (R24). -/
  f : Bool
  /-- The flag C (R25). -/
  c : Bool
  deriving DecidableEq, Repr

/-- A wide register: its value, and whether a committed command has written it since reset (R21, R22). -/
structure WReg where
  value : Wide
  written : Bool
  deriving DecidableEq, Repr

/-- The divider's internal partial results (R30), named as in 43_divide.md R141: quotient `q`, remainder `r`, aligned
divisor `dd`, and how many iterations are left. -/
structure Divider where
  q : Wide
  r : Wide
  dd : Wide
  left : Nat
  deriving DecidableEq, Repr

/-- The in-flight command (R30): the latched word and DIN words, the operand values read at acceptance (absent for an
operand the command does not read, log 19), the divider (for DIV, MOD and DIVMOD) and how many rising edges are left
until the commit edge (R182). -/
structure InFlight where
  cmd : BitVec 32
  dinHi : Word
  dinLo : Word
  a : Option Wide
  b : Option Wide
  divider : Option Divider
  left : Nat
  deriving DecidableEq, Repr

/-- The state of the block: everything 10_state.md gives it, and nothing R33 calls a parameter of the step. -/
structure Block where
  /-- W0 to W7 (R21, R22). -/
  regs : Vector WReg 8
  /-- STATUS with the flags F and C (R24, R25, R26). -/
  status : Status
  /-- DOUT_HI (R27). -/
  doutHi : Word
  /-- DOUT_LO (R27). -/
  doutLo : Word
  /-- The in-flight command, if one is (R30). -/
  inflight : Option InFlight
  /-- The output `done` (R29). -/
  done : Bool
  deriving DecidableEq, Repr

/-- The machine: the block, and the host beside it. A step of the host's interface takes no argument, so the parameters R33
names, the input ports and the command sequence, stand here and not in `Block` (log 3); `unitStep` and `unitEdge` take
them as parameters. -/
structure State extends Block where
  /-- What the host drives now (the model's own field, log 3). -/
  pins : Pins
  /-- What the host drives afterwards, in order (the model's own field, log 3). -/
  script : List Pins
  deriving DecidableEq, Repr

/-- Why a machine stops. `Sys2Proof.Machine.step` raises none of these: on the hardware every command completes or
commits a fault into STATUS, which is a next state (60_exceptions.md R161, R166). -/
inductive Fault where
  /-- UNWRITTEN (R166), "a fault of the model, not of the hardware". Raised by `strictStep` only, when an accepted
  command reads a wide register nothing has written since reset. Safe: the machine stops where the hardware goes on. -/
  | unwritten
  deriving DecidableEq, Repr

/-- Why a machine gives an instruction no meaning. -/
inductive Refusal where
  /-- An arm of `exec` that has no meaning yet. No arm raises it in this model. Safe. -/
  | notModelled (mnemonic : String)
  deriving DecidableEq, Repr

/-- What a step or a command answers. -/
abbrev Result := Host.Outcome State Fault Refusal

/-- STATUS after reset (R26, R180). -/
def Status.reset : Status := ⟨false, false, .none, false, false⟩

/-- A wide register after reset: unwritten (R22, R180). Its value is unspecified by the spec.
DESIGN CHOICE, log 1, unsafe: the model holds zero there. -/
def WReg.reset : WReg := ⟨.zero, false⟩

/-- Input ports with nothing on them: no reset, no command. DESIGN CHOICE for the words, log 15, safe: nothing reads
them while `cmdValid` is low. -/
def Pins.idle : Pins := ⟨false, false, 0, 0, 0⟩

/-- The machine right after reset (70_reset_and_hazards.md R180), with a host that offers nothing (log 15). -/
def State.reset : State where
  regs := Vector.replicate 8 .reset
  status := .reset
  doutHi := 0
  doutLo := 0
  inflight := none
  done := false
  pins := .idle
  script := []

/-- What a command commits (20_memory.md R43, 70_reset_and_hazards.md R182): all its results at once, or a fault. The
shapes are those of the writes column of 30_encoding.md R52. -/
inductive Effect where
  /-- `W[rd] <- v`. -/
  | wide (rd : Reg) (v : Wide)
  /-- `W[rd] <- v; C <- c`. -/
  | wideCarry (rd : Reg) (v : Wide) (c : Bool)
  /-- `W[rd] <- v; W[re] <- u`. -/
  | widePair (rd : Reg) (v : Wide) (re : Reg) (u : Wide)
  /-- `DOUT <- (h, l)`. -/
  | dout (h l : Word)
  /-- `F <- b`. -/
  | flagF (b : Bool)
  /-- `raise Fault(code)` (60_exceptions.md R161). -/
  | fault (code : FCode)
  deriving DecidableEq, Repr

end Sys2Proof.Machine
end

