-- ==== Sys2Proof/Machine/Ops.lean ====
section
/-! DEFINITION. The named operations over the state: registers, STATUS, the commit of results, taking a fault (60_exceptions.md R161), and reset, which is the only way out of a fault (R168). -/

namespace Sys2Proof.Machine

/-! Registers. -/

/-- `W[r]` (00_scope.md R10). -/
def State.reg (s : State) (r : Reg) : Wide := (s.regs.get r).value

/-- Whether `W[r]` has been written since reset (10_state.md R22). -/
def State.written (s : State) (r : Reg) : Bool := (s.regs.get r).written

/-- `W[r] <- v` (R10), which marks the register written (R22). A register is written whole (20_memory.md R43). -/
def State.setReg (s : State) (r : Reg) (v : Wide) : State :=
  { s with regs := s.regs.set r.val ⟨v, true⟩ r.isLt }

/-! STATUS and the output ports. -/

/-- The value of an FCODE (10_state.md R26). -/
def FCode.code : FCode → BitVec 4
  | .none => 0
  | .illegal => 1
  | .divZero => 2
  | .shiftRange => 3

/-- STATUS as the 32-bit register the host reads (R26): BUSY is bit 0, FAULT bit 1, FCODE bits 5:2, F bit 6, C bit 7,
and bits 31:8 are 0. -/
def State.statusWord (s : State) : BitVec 32 :=
  0#24 ++ BitVec.ofBool s.status.c ++ BitVec.ofBool s.status.f ++ s.status.fcode.code ++ BitVec.ofBool s.status.fault
    ++ BitVec.ofBool s.status.busy

/-- The output `cmd_ready = !rst && !BUSY && !FAULT` (R29). -/
def State.cmdReady (s : State) : Bool := !s.pins.rst && !s.status.busy && !s.status.fault

/-- The output `fault = STATUS.FAULT` (R29). -/
def State.faultOut (s : State) : Bool := s.status.fault

/-- What the host reads on the output ports (R29). Reading has no side effect (20_memory.md R43). -/
def State.outputs (s : State) : Outputs where
  cmdReady := s.cmdReady
  doutHi := s.doutHi
  doutLo := s.doutLo
  status := s.statusWord
  done := s.done
  fault := s.faultOut

/-! Commit. -/

/-- `DOUT <- (h, l)` (R10). -/
def State.setDout (s : State) (h l : Word) : State := { s with doutHi := h, doutLo := l }

/-- `F <- b` (R10). -/
def State.setF (s : State) (b : Bool) : State := { s with status := { s.status with f := b } }

/-- `C <- b` (R10). -/
def State.setC (s : State) (b : Bool) : State := { s with status := { s.status with c := b } }

/-- BUSY falls and the in-flight command is discarded (10_state.md R30, 70_reset_and_hazards.md R182); `done` is as given. -/
def State.endCommand (s : State) (done : Bool) : State :=
  { s with status := { s.status with busy := false }, inflight := none, done := done }

/-- Taking a fault, `raise Fault(code)` (60_exceptions.md R161): FAULT <- 1, FCODE <- code, BUSY <- 0, and nothing
else is written; `done` does not pulse. -/
def State.raise (s : State) (code : FCode) : State :=
  { s with status := { s.status with fault := true, fcode := code } }.endCommand false

/-- The commit of a command (20_memory.md R43, 70_reset_and_hazards.md R182): every result at once, BUSY <- 0, and `done`
rises; or the fault. -/
def State.perform (s : State) : Effect → State
  | .wide rd v => (s.setReg rd v).endCommand true
  | .wideCarry rd v c => ((s.setReg rd v).setC c).endCommand true
  | .widePair rd v re u => ((s.setReg rd v).setReg re u).endCommand true
  | .dout h l => (s.setDout h l).endCommand true
  | .flagF b => (s.setF b).endCommand true
  | .fault code => s.raise code

/-- A rising edge with `rst = 1` (70_reset_and_hazards.md R180): the block is as right after reset, whatever it was
doing. There is no trap return: this is the only way FAULT is cleared (60_exceptions.md R168). -/
def State.resetEdge (s : State) : State :=
  { State.reset with pins := s.pins, script := s.script }

/-! The host's side. -/

/-- The host drives `p` on the input ports. -/
def State.drive (s : State) (p : Pins) : State := { s with pins := p }

/-- The host drives what it has next; nothing when its script is at its end (log 3, log 4). -/
def State.hostNext (s : State) : State :=
  match s.script with
  | [] => { s with pins := .idle }
  | p :: ps => { s with pins := p, script := ps }

/-- One edge on which the unit accepts and commits nothing: it holds all state (60_exceptions.md R176), and a `done`
pulse of the cycle before is over (10_state.md R29). -/
def State.hold (s : State) : State := { s with done := false }

end Sys2Proof.Machine
end

