-- ==== Sys2Proof/Machine/Operands.lean ====
section
/-! DEFINITION. Operand resolution (30_encoding.md R55): promotion of a native operand (40_conversion.md R70, R71), and which operands a command reads (R52). -/

namespace Sys2Proof

/-- The width NW selects, in bits (30_encoding.md R53). -/
def NativeWidth.bits : NativeWidth → Nat
  | .w8 => 8
  | .w16 => 16
  | .w32 => 32
  | .w64 => 64

namespace Machine

/-- `zext_64(v[n-1:0])` (00_scope.md R10). -/
def zext64 (n : Nat) (v : Word) : Word := (v.setWidth n).setWidth 64

/-- `sext_64(v[n-1:0])` (00_scope.md R10). -/
def sext64 (n : Nat) (v : Word) : Word := (v.setWidth n).signExtend 64

/-- `promote_u(w, v[w-1:0])` (40_conversion.md R70). -/
def promoteU (w : NativeWidth) (v : Word) : Wide := ⟨0, zext64 w.bits v⟩

/-- `promote_s(w, v[w-1:0])` (40_conversion.md R71): `hi` is `lo`'s sign bit, repeated. -/
def promoteS (w : NativeWidth) (v : Word) : Wide :=
  let lo := sext64 w.bits v
  ⟨if lo.msb then BitVec.allOnes 64 else 0, lo⟩

/-- `promote(NW, NS, v)` (30_encoding.md R55). -/
def promote (t : NativeType) (v : Word) : Wide :=
  if t.signed then promoteS t.width v else promoteU t.width v

end Machine

/-- The value of an operand: a register of `s`, or the promoted native on DIN_LO (R55). -/
def Operand.value (a : Operand) (s : Machine.State) : Wide :=
  match a with
  | .reg r => s.reg r
  | .din t => Machine.promote t s.pins.dinLo

/-- Whether reading the operand reads a register nothing has written since reset (10_state.md R22). -/
def Operand.unwritten (a : Operand) (s : Machine.State) : Bool :=
  match a with
  | .reg r => !s.written r
  | .din _ => false

/-- Operand A, where the command reads it (R52). -/
def Instr.operandA : Instr → Option Operand
  | .mov _ a => some a
  | .pair _ => none
  | .cvtf32 _ => none
  | .cvtf64 _ => none
  | .rdw a => some a
  | .trunc _ a => some a
  | .tof32 a => some a
  | .tof64 a => some a
  | .tobool a => some a
  | .add _ a _ => some a
  | .sub _ a _ => some a
  | .neg _ a => some a
  | .inc _ a => some a
  | .dec _ a => some a
  | .not _ a => some a
  | .and _ a _ => some a
  | .or _ a _ => some a
  | .xor _ a _ => some a
  | .eq a _ => some a
  | .ne a _ => some a
  | .lt a _ => some a
  | .le a _ => some a
  | .gt a _ => some a
  | .ge a _ => some a
  | .mul _ a _ => some a
  | .div _ a _ => some a
  | .mod _ a _ => some a
  | .divmod _ _ a _ => some a
  | .shl _ a _ => some a
  | .shr _ a _ => some a

/-- Operand B, where the command reads it (R52). -/
def Instr.operandB : Instr → Option Operand
  | .mov _ _ => none
  | .pair _ => none
  | .cvtf32 _ => none
  | .cvtf64 _ => none
  | .rdw _ => none
  | .trunc _ _ => none
  | .tof32 _ => none
  | .tof64 _ => none
  | .tobool _ => none
  | .add _ _ b => some b
  | .sub _ _ b => some b
  | .neg _ _ => none
  | .inc _ _ => none
  | .dec _ _ => none
  | .not _ _ => none
  | .and _ _ b => some b
  | .or _ _ b => some b
  | .xor _ _ b => some b
  | .eq _ b => some b
  | .ne _ b => some b
  | .lt _ b => some b
  | .le _ b => some b
  | .gt _ b => some b
  | .ge _ b => some b
  | .mul _ _ b => some b
  | .div _ _ b => some b
  | .mod _ _ b => some b
  | .divmod _ _ _ b => some b
  | .shl _ _ b => some b
  | .shr _ _ b => some b

/-- Whether the command reads a register nothing has written since reset (R55, 60_exceptions.md R166). -/
def Instr.readsUnwritten (i : Instr) (s : Machine.State) : Bool :=
  i.operandA.any (·.unwritten s) || i.operandB.any (·.unwritten s)

end Sys2Proof
end

