-- ==== Sys2Proof/Machine/Additive.lean ====
section
/-! DEFINITION. Additive commands (41_additive_bitwise.md R102 to R106): what each commits, and each as one atomic step. Overflow wraps and is never a fault. -/

namespace Sys2Proof.Machine

/-- ADD (R102): C is the carry out of bit 127. -/
def effectAdd (rd : Reg) (a b : Wide) : Effect :=
  .wideCarry rd (add128 a b false).1 (add128 a b false).2

def execAdd (rd : Reg) (a b : Operand) (s : State) : Result :=
  .next (s.perform (effectAdd rd (a.value s) (b.value s)))

/-- SUB (R103): C is the borrow. -/
def effectSub (rd : Reg) (a b : Wide) : Effect :=
  .wideCarry rd (sub128 a b).1 (sub128 a b).2

def execSub (rd : Reg) (a b : Operand) (s : State) : Result :=
  .next (s.perform (effectSub rd (a.value s) (b.value s)))

/-- NEG (R104): `0 - A`. -/
def effectNeg (rd : Reg) (a : Wide) : Effect :=
  .wideCarry rd (sub128 .zero a).1 (sub128 .zero a).2

def execNeg (rd : Reg) (a : Operand) (s : State) : Result :=
  .next (s.perform (effectNeg rd (a.value s)))

/-- INC (R105): A and a carry in of 1. -/
def effectInc (rd : Reg) (a : Wide) : Effect :=
  .wideCarry rd (add128 a .zero true).1 (add128 a .zero true).2

def execInc (rd : Reg) (a : Operand) (s : State) : Result :=
  .next (s.perform (effectInc rd (a.value s)))

/-- DEC (R106): `A - 1`. -/
def effectDec (rd : Reg) (a : Wide) : Effect :=
  .wideCarry rd (sub128 a .one).1 (sub128 a .one).2

def execDec (rd : Reg) (a : Operand) (s : State) : Result :=
  .next (s.perform (effectDec rd (a.value s)))

end Sys2Proof.Machine
end

