-- ==== Sys2Proof/Machine/Bitwise.lean ====
section
/-! DEFINITION. Bitwise commands (41_additive_bitwise.md R107 to R110), word by word: what each commits, and each as one atomic step. -/

namespace Sys2Proof.Machine

/-- NOT (R107). -/
def effectNot (rd : Reg) (a : Wide) : Effect := .wide rd ⟨~~~a.hi, ~~~a.lo⟩

def execNot (rd : Reg) (a : Operand) (s : State) : Result :=
  .next (s.perform (effectNot rd (a.value s)))

/-- AND (R108). -/
def effectAnd (rd : Reg) (a b : Wide) : Effect := .wide rd ⟨a.hi &&& b.hi, a.lo &&& b.lo⟩

def execAnd (rd : Reg) (a b : Operand) (s : State) : Result :=
  .next (s.perform (effectAnd rd (a.value s) (b.value s)))

/-- OR (R109). -/
def effectOr (rd : Reg) (a b : Wide) : Effect := .wide rd ⟨a.hi ||| b.hi, a.lo ||| b.lo⟩

def execOr (rd : Reg) (a b : Operand) (s : State) : Result :=
  .next (s.perform (effectOr rd (a.value s) (b.value s)))

/-- XOR (R110). -/
def effectXor (rd : Reg) (a b : Wide) : Effect := .wide rd ⟨a.hi ^^^ b.hi, a.lo ^^^ b.lo⟩

def execXor (rd : Reg) (a b : Operand) (s : State) : Result :=
  .next (s.perform (effectXor rd (a.value s) (b.value s)))

end Sys2Proof.Machine
end

