-- ==== Sys2Proof/Machine/Compare.lean ====
section
/-! DEFINITION. Comparison commands (41_additive_bitwise.md R111 to R116): each commits F and nothing else. -/

namespace Sys2Proof.Machine

/-- EQ (R111). -/
def effectEq (a b : Wide) : Effect := .flagF (flagEq a b)

def execEq (a b : Operand) (s : State) : Result :=
  .next (s.perform (effectEq (a.value s) (b.value s)))

/-- NE (R112). -/
def effectNe (a b : Wide) : Effect := .flagF (flagNe a b)

def execNe (a b : Operand) (s : State) : Result :=
  .next (s.perform (effectNe (a.value s) (b.value s)))

/-- LT (R113). -/
def effectLt (a b : Wide) : Effect := .flagF (flagLt a b)

def execLt (a b : Operand) (s : State) : Result :=
  .next (s.perform (effectLt (a.value s) (b.value s)))

/-- LE (R114). -/
def effectLe (a b : Wide) : Effect := .flagF (flagLe a b)

def execLe (a b : Operand) (s : State) : Result :=
  .next (s.perform (effectLe (a.value s) (b.value s)))

/-- GT (R115). -/
def effectGt (a b : Wide) : Effect := .flagF (flagGt a b)

def execGt (a b : Operand) (s : State) : Result :=
  .next (s.perform (effectGt (a.value s) (b.value s)))

/-- GE (R116). -/
def effectGe (a b : Wide) : Effect := .flagF (flagGe a b)

def execGe (a b : Operand) (s : State) : Result :=
  .next (s.perform (effectGe (a.value s) (b.value s)))

end Sys2Proof.Machine
end

