-- ==== Sys2Proof/Machine/Float.lean ====
section
/-! DEFINITION. The two IEEE 754 formats (00_scope.md R11) and the conversions between them and wide values: saturating truncation (40_conversion.md R72) and round half to even (R73). -/

namespace Sys2Proof.Machine

/-- An interchange format: the widths of the exponent and fraction fields (R11). PRESUMED by the spec (93 G2), log 11. -/
structure FloatFormat where
  expBits : Nat
  fracBits : Nat
  deriving DecidableEq, Repr

/-- binary32 (R11). -/
def binary32 : FloatFormat := ⟨8, 23⟩

/-- binary64 (R11). -/
def binary64 : FloatFormat := ⟨11, 52⟩

namespace FloatFormat

/-- The width of a pattern. -/
def width (fmt : FloatFormat) : Nat := 1 + fmt.expBits + fmt.fracBits

/-- `bias` (R11): 127 or 1023. -/
def bias (fmt : FloatFormat) : Nat := 2 ^ (fmt.expBits - 1) - 1

/-- `P` (R11): 24 or 53. -/
def prec (fmt : FloatFormat) : Nat := fmt.fracBits + 1

/-- `EMAX_FIELD` (R11): 255 or 2047. -/
def emaxField (fmt : FloatFormat) : Nat := 2 ^ fmt.expBits - 1

/-- `f.s` (R11). -/
def sign (fmt : FloatFormat) (f : BitVec fmt.width) : Bool := f.getLsbD (fmt.expBits + fmt.fracBits)

/-- `f.e` (R11). -/
def exponent (fmt : FloatFormat) (f : BitVec fmt.width) : Nat := f.toNat / 2 ^ fmt.fracBits % 2 ^ fmt.expBits

/-- `f.m` (R11). -/
def fraction (fmt : FloatFormat) (f : BitVec fmt.width) : Nat := f.toNat % 2 ^ fmt.fracBits

/-- The pattern with sign 0 and the given fields. -/
def pack (fmt : FloatFormat) (e m : Nat) : BitVec fmt.width := BitVec.ofNat fmt.width (2 ^ fmt.fracBits * e + m)

end FloatFormat

/-- `fp_to_u128(f, fmt)` (40_conversion.md R72). -/
def fpToU128 (fmt : FloatFormat) (f : BitVec fmt.width) : Wide :=
  let e := fmt.exponent f
  let m := fmt.fraction f
  let sig := 2 ^ (fmt.prec - 1) + m
  let one := fmt.bias + (fmt.prec - 1)
  if e = fmt.emaxField ∧ m ≠ 0 then .zero
  else if fmt.sign f then .zero
  else if e = fmt.emaxField then .ones
  else if e = 0 then .zero
  else if one ≤ e then
    (let v := 2 ^ (e - one) * sig
     if 2 ^ 128 ≤ v then .ones else .ofNat v)
  else .ofNat (sig / 2 ^ (one - e))

/-- `clz(v)` of a wide value (00_scope.md R10). -/
def clz128 (x : Wide) : Nat := if x.toNat = 0 then 128 else 127 - Nat.log2 x.toNat

/-- The significand after rounding half to even (R73): `sig` is the kept part, `rem` the part dropped, of `2^sh`. -/
def roundHalfEven (sig rem sh : Nat) : Nat :=
  let half := 2 ^ (sh - 1)
  if half < rem ∨ (rem = half ∧ sig % 2 = 1) then sig + 1 else sig

/-- `u128_to_fp(x, fmt)` (40_conversion.md R73). -/
def u128ToFp (fmt : FloatFormat) (x : Wide) : BitVec fmt.width :=
  if x.toNat = 0 then 0
  else
    let p := 127 - clz128 x
    let q := fmt.prec - 1
    let sh := p - q
    let rounded :=
      if p ≤ q then 2 ^ (q - p) * x.toNat
      else roundHalfEven (x.toNat / 2 ^ sh) (x.toNat % 2 ^ sh) sh
    let sig := if rounded = 2 ^ fmt.prec then 2 ^ q else rounded
    let p' := if rounded = 2 ^ fmt.prec then p + 1 else p
    if fmt.emaxField ≤ p' + fmt.bias then fmt.pack fmt.emaxField 0
    else fmt.pack (p' + fmt.bias) (sig - 2 ^ q)

end Sys2Proof.Machine
end

