-- ==== Sys2Proof/Machine/Conversion.lean ====
section
/-! DEFINITION. Representation and conversion commands (40_conversion.md R74 to R82): what each commits, and each as one atomic step from acceptance to commit. -/

namespace Sys2Proof.Machine

/-- MOV (R74). -/
def effectMov (rd : Reg) (a : Wide) : Effect := .wide rd a

def execMov (rd : Reg) (a : Operand) (s : State) : Result :=
  .next (s.perform (effectMov rd (a.value s)))

/-- PAIR (R75). -/
def effectPair (rd : Reg) (dinHi dinLo : Word) : Effect := .wide rd ⟨dinHi, dinLo⟩

def execPair (rd : Reg) (s : State) : Result :=
  .next (s.perform (effectPair rd s.pins.dinHi s.pins.dinLo))

/-- CVTF32 (R76): the pattern is DIN_LO[31:0]. -/
def effectCvtf32 (rd : Reg) (dinLo : Word) : Effect :=
  .wide rd (fpToU128 binary32 (dinLo.setWidth binary32.width))

def execCvtf32 (rd : Reg) (s : State) : Result :=
  .next (s.perform (effectCvtf32 rd s.pins.dinLo))

/-- CVTF64 (R77): the pattern is DIN_LO. -/
def effectCvtf64 (rd : Reg) (dinLo : Word) : Effect :=
  .wide rd (fpToU128 binary64 (dinLo.setWidth binary64.width))

def execCvtf64 (rd : Reg) (s : State) : Result :=
  .next (s.perform (effectCvtf64 rd s.pins.dinLo))

/-- RDW (R78). -/
def effectRdw (a : Wide) : Effect := .dout a.hi a.lo

def execRdw (a : Operand) (s : State) : Result :=
  .next (s.perform (effectRdw (a.value s)))

/-- TRUNC (R79): the low bits of `lo`, extended to the word by the target's signedness. -/
def effectTrunc (t : NativeType) (a : Wide) : Effect :=
  .dout 0 (if t.signed then sext64 t.width.bits a.lo else zext64 t.width.bits a.lo)

def execTrunc (t : NativeType) (a : Operand) (s : State) : Result :=
  .next (s.perform (effectTrunc t (a.value s)))

/-- TOF32 (R80): the pattern in DOUT_LO[31:0], the bits above it 0. -/
def effectTof32 (a : Wide) : Effect := .dout 0 ((u128ToFp binary32 a).setWidth 64)

def execTof32 (a : Operand) (s : State) : Result :=
  .next (s.perform (effectTof32 (a.value s)))

/-- TOF64 (R81). -/
def effectTof64 (a : Wide) : Effect := .dout 0 ((u128ToFp binary64 a).setWidth 64)

def execTof64 (a : Operand) (s : State) : Result :=
  .next (s.perform (effectTof64 (a.value s)))

/-- TOBOOL (R82). -/
def effectTobool (a : Wide) : Effect := .flagF (flagTruth a)

def execTobool (a : Operand) (s : State) : Result :=
  .next (s.perform (effectTobool (a.value s)))

end Sys2Proof.Machine
end

