-- ==== Sys2Proof/Machine/Shift.lean ====
section
/-! DEFINITION. Shifts (44_shift.md R150 to R153): the count's range, the word-boundary datapath and the two commands. -/

namespace Sys2Proof.Machine

/-- `xlo(hi, n)` (R151): the bits of `hi` that flow into `lo` on a right shift. -/
def xlo (hi : Word) (n : Nat) : Word := if n = 0 then 0 else hi <<< (64 - n)

/-- `xhi(lo, n)` (R151): the bits of `lo` that flow into `hi` on a left shift. -/
def xhi (lo : Word) (n : Nat) : Word := if n = 0 then 0 else lo >>> (64 - n)

/-- The left shift of R152, for a count `n` in 0..127. -/
def shl128 (a : Wide) (n : Nat) : Wide :=
  if 64 ≤ n then ⟨a.lo <<< (n - 64), 0⟩ else ⟨a.hi <<< n ||| xhi a.lo n, a.lo <<< n⟩

/-- The right shift of R153, for a count `n` in 0..127. -/
def shr128 (a : Wide) (n : Nat) : Wide :=
  if 64 ≤ n then ⟨0, a.hi >>> (n - 64)⟩ else ⟨a.hi >>> n, a.lo >>> n ||| xlo a.hi n⟩

/-- SHL (R152): the count is all of V(B); 128 or more faults (R150). -/
def effectShl (rd : Reg) (a b : Wide) : Effect :=
  if 128 ≤ b.toNat then .fault .shiftRange else .wide rd (shl128 a b.toNat)

def execShl (rd : Reg) (a b : Operand) (s : State) : Result :=
  .next (s.perform (effectShl rd (a.value s) (b.value s)))

/-- SHR (R153): the count is all of V(B); 128 or more faults (R150). -/
def effectShr (rd : Reg) (a b : Wide) : Effect :=
  if 128 ≤ b.toNat then .fault .shiftRange else .wide rd (shr128 a b.toNat)

def execShr (rd : Reg) (a b : Operand) (s : State) : Result :=
  .next (s.perform (effectShr rd (a.value s) (b.value s)))

end Sys2Proof.Machine
end

