-- ==== Sys2Proof/Machine/Divide.lean ====
section
/-! DEFINITION. Division (43_divide.md R140 to R146): the contract every result follows, the reference algorithm and the 64-bit path the spec permits, and the three commands. -/

namespace Sys2Proof.Machine

/-- `divmod128(n, d)` (R140): quotient and remainder, for `d ≠ 0`. "This equation, not any algorithm, is normative." -/
def divmod128 (n d : Wide) : Wide × Wide := (.ofNat (n.toNat / d.toNat), .ofNat (n.toNat % d.toNat))

/-- The start of the reference algorithm (R141): the divisor's leading 1 aligned under the numerator's. -/
def Divider.start (n d : Wide) : Divider :=
  if n.toNat < d.toNat then ⟨.zero, n, d, 0⟩
  else
    let s := clz128 d - clz128 n
    ⟨.zero, n, shl128 d s, s + 1⟩

/-- One iteration of the reference algorithm (R141); nothing once no iteration is left. -/
def Divider.iterate (v : Divider) : Divider :=
  if v.left = 0 then v
  else
    let q := shl128 v.q 1
    if v.dd.toNat ≤ v.r.toNat then ⟨⟨q.hi, q.lo ||| 1⟩, (sub128 v.r v.dd).1, shr128 v.dd 1, v.left - 1⟩
    else ⟨q, v.r, shr128 v.dd 1, v.left - 1⟩

/-- `k` iterations. -/
def Divider.run : Nat → Divider → Divider
  | 0, v => v
  | k + 1, v => Divider.run k v.iterate

/-- The result of the reference algorithm (R141). -/
def divmodRef (n d : Wide) : Wide × Wide :=
  let v := Divider.start n d
  let w := Divider.run v.left v
  (w.q, w.r)

/-- The 64-bit-divisor path (R142): single-word-divisor long division, one numerator word at a time, for `d.hi = 0`. -/
def divmodWord (n : Wide) (d : Word) : Wide × Wide :=
  let qh := n.hi.toNat / d.toNat
  let rh := n.hi.toNat % d.toNat
  let t := 2 ^ 64 * rh + n.lo.toNat
  (⟨BitVec.ofNat 64 qh, BitVec.ofNat 64 (t / d.toNat)⟩, ⟨0, BitVec.ofNat 64 (t % d.toNat)⟩)

/-- DIV (R144): the quotient; a zero divisor faults (R143). -/
def effectDiv (rd : Reg) (a b : Wide) : Effect :=
  if b.toNat = 0 then .fault .divZero else .wide rd (divmod128 a b).1

def execDiv (rd : Reg) (a b : Operand) (s : State) : Result :=
  .next (s.perform (effectDiv rd (a.value s) (b.value s)))

/-- MOD (R145): the remainder; a zero divisor faults (R143). -/
def effectMod (rd : Reg) (a b : Wide) : Effect :=
  if b.toNat = 0 then .fault .divZero else .wide rd (divmod128 a b).2

def execMod (rd : Reg) (a b : Operand) (s : State) : Result :=
  .next (s.perform (effectMod rd (a.value s) (b.value s)))

/-- DIVMOD (R146): both. RD = RE is ILLEGAL before everything else (60_exceptions.md R165); no word decodes to such a
term (log 14). -/
def effectDivmod (rd re : Reg) (a b : Wide) : Effect :=
  if rd = re then .fault .illegal
  else if b.toNat = 0 then .fault .divZero
  else .widePair rd (divmod128 a b).1 re (divmod128 a b).2

def execDivmod (rd re : Reg) (a b : Operand) (s : State) : Result :=
  .next (s.perform (effectDivmod rd re (a.value s) (b.value s)))

end Sys2Proof.Machine
end

