-- ==== Sys2Proof/Machine/Multiply.lean ====
section
/-! DEFINITION. Multiplication (42_multiply.md R130, R131): the widening primitive, the truncating product built from it, and the command. -/

namespace Sys2Proof.Machine

/-- `mul64x128(x, y)` (R130): the exact product of two words. -/
def mul64x128 (x y : Word) : Wide := .ofNat (x.toNat * y.toNat)

/-- The truncating product from partial products (R131). -/
def mul128 (a b : Wide) : Wide :=
  let p := mul64x128 a.lo b.lo
  ⟨p.hi + a.hi * b.lo + a.lo * b.hi, p.lo⟩

/-- MUL (R131). -/
def effectMul (rd : Reg) (a b : Wide) : Effect := .wide rd (mul128 a b)

def execMul (rd : Reg) (a b : Operand) (s : State) : Result :=
  .next (s.perform (effectMul rd (a.value s) (b.value s)))

end Sys2Proof.Machine
end

