-- ==== Sys2Proof/Machine/Dispatch.lean ====
section
/-! DEFINITION. One arm per command: the effect of an accepted command, from acceptance to commit (70_reset_and_hazards.md R189). -/

namespace Sys2Proof.Machine

def exec (i : Instr) (s : State) : Host.Outcome State Fault Refusal :=
  match i with
  | .mov rd a => Sys2Proof.Machine.execMov rd a s
  | .pair rd => Sys2Proof.Machine.execPair rd s
  | .cvtf32 rd => Sys2Proof.Machine.execCvtf32 rd s
  | .cvtf64 rd => Sys2Proof.Machine.execCvtf64 rd s
  | .rdw a => Sys2Proof.Machine.execRdw a s
  | .trunc t a => Sys2Proof.Machine.execTrunc t a s
  | .tof32 a => Sys2Proof.Machine.execTof32 a s
  | .tof64 a => Sys2Proof.Machine.execTof64 a s
  | .tobool a => Sys2Proof.Machine.execTobool a s
  | .add rd a b => Sys2Proof.Machine.execAdd rd a b s
  | .sub rd a b => Sys2Proof.Machine.execSub rd a b s
  | .neg rd a => Sys2Proof.Machine.execNeg rd a s
  | .inc rd a => Sys2Proof.Machine.execInc rd a s
  | .dec rd a => Sys2Proof.Machine.execDec rd a s
  | .not rd a => Sys2Proof.Machine.execNot rd a s
  | .and rd a b => Sys2Proof.Machine.execAnd rd a b s
  | .or rd a b => Sys2Proof.Machine.execOr rd a b s
  | .xor rd a b => Sys2Proof.Machine.execXor rd a b s
  | .eq a b => Sys2Proof.Machine.execEq a b s
  | .ne a b => Sys2Proof.Machine.execNe a b s
  | .lt a b => Sys2Proof.Machine.execLt a b s
  | .le a b => Sys2Proof.Machine.execLe a b s
  | .gt a b => Sys2Proof.Machine.execGt a b s
  | .ge a b => Sys2Proof.Machine.execGe a b s
  | .mul rd a b => Sys2Proof.Machine.execMul rd a b s
  | .div rd a b => Sys2Proof.Machine.execDiv rd a b s
  | .mod rd a b => Sys2Proof.Machine.execMod rd a b s
  | .divmod rd re a b => Sys2Proof.Machine.execDivmod rd re a b s
  | .shl rd a b => Sys2Proof.Machine.execShl rd a b s
  | .shr rd a b => Sys2Proof.Machine.execShr rd a b s

end Sys2Proof.Machine
end

