-- ==== Sys2Proof/WellFormed.lean ====
section
/-! DEFINITION. Which terms of Instr have an encoding: every DIN operand of one command names the same type (30_encoding.md R53, R61), and DIVMOD's two destinations differ (R57). -/

namespace Sys2Proof

/-- Two operands of one command agree on the one NW/NS pair (R53): if both are DIN operands they name the same type (R61). -/
def Operand.agree : Operand → Operand → Bool
  | .din t, .din t' => t == t'
  | _, _ => true

/-- TRUNC reads NW and NS as its target, so a DIN operand of it names that same type (R61, TRUNC form). -/
def Operand.hasType (t : NativeType) : Operand → Bool
  | .din t' => t == t'
  | .reg _ => true

/-- A command that some word encodes (R50, R53, R57, R61). -/
def Instr.wellFormed : Instr → Bool
  | .mov _ _ => true
  | .pair _ => true
  | .cvtf32 _ => true
  | .cvtf64 _ => true
  | .rdw _ => true
  | .trunc t a => a.hasType t
  | .tof32 _ => true
  | .tof64 _ => true
  | .tobool _ => true
  | .add _ a b => a.agree b
  | .sub _ a b => a.agree b
  | .neg _ _ => true
  | .inc _ _ => true
  | .dec _ _ => true
  | .not _ _ => true
  | .and _ a b => a.agree b
  | .or _ a b => a.agree b
  | .xor _ a b => a.agree b
  | .eq a b => a.agree b
  | .ne a b => a.agree b
  | .lt a b => a.agree b
  | .le a b => a.agree b
  | .gt a b => a.agree b
  | .ge a b => a.agree b
  | .mul _ a b => a.agree b
  | .div _ a b => a.agree b
  | .mod _ a b => a.agree b
  | .divmod rd re a b => rd != re && a.agree b
  | .shl _ a b => a.agree b
  | .shr _ a b => a.agree b

end Sys2Proof
end

