-- ==== Sys2Proof/Decode.lean ====
section
/-! DEFINITION. Decoding a command word, total and rejecting by name (30_encoding.md R59), and after it the encoder written from the same field table (R50, R52, R61). -/

namespace Sys2Proof

/-- Why a word is ILLEGAL (R57). -/
inductive Illegal where
  /-- (a) OP is not in the map of R52. -/
  | unassignedOp
  /-- (b) a bit of RSV is 1 (R54). -/
  | reservedBits
  /-- (c) DIVMOD with RD = RE. -/
  | sameDestinations
  deriving DecidableEq, Repr

/-- What a word decodes to: exactly one command, or ILLEGAL (R59). -/
inductive Decoded where
  | command (i : Instr)
  | illegal (why : Illegal)
  deriving DecidableEq, Repr

/-- The command, if the word is legal. -/
def Decoded.toOption : Decoded → Option Instr
  | .command i => some i
  | .illegal _ => none

/-! The fields of CMD32 (R50). -/

/-- OP, bits 5:0. -/
def opField (w : BitVec 32) : BitVec 6 := w.extractLsb' 0 6

/-- RD, bits 8:6. -/
def rdField (w : BitVec 32) : Reg := (w.extractLsb' 6 3).toFin

/-- RA, bits 11:9. -/
def raField (w : BitVec 32) : Reg := (w.extractLsb' 9 3).toFin

/-- RB, bits 14:12. -/
def rbField (w : BitVec 32) : Reg := (w.extractLsb' 12 3).toFin

/-- RE, bits 17:15. -/
def reField (w : BitVec 32) : Reg := (w.extractLsb' 15 3).toFin

/-- ASEL, bit 18. -/
def aselField (w : BitVec 32) : Bool := w.getLsbD 18

/-- BSEL, bit 19. -/
def bselField (w : BitVec 32) : Bool := w.getLsbD 19

/-- NW, bits 21:20. -/
def nwField (w : BitVec 32) : BitVec 2 := w.extractLsb' 20 2

/-- NS, bit 22. -/
def nsField (w : BitVec 32) : Bool := w.getLsbD 22

/-- RSV, bits 31:23. -/
def rsvField (w : BitVec 32) : BitVec 9 := w.extractLsb' 23 9

/-- The width NW selects (R53). -/
def NativeWidth.ofCode (c : BitVec 2) : NativeWidth :=
  match c with
  | 0b00#2 => .w8
  | 0b01#2 => .w16
  | 0b10#2 => .w32
  | 0b11#2 => .w64

/-- The native type of the word's one NW/NS pair (R53). -/
def typeField (w : BitVec 32) : NativeType := ⟨NativeWidth.ofCode (nwField w), nsField w⟩

/-- Operand A of the word (R55). -/
def operandAField (w : BitVec 32) : Operand :=
  if aselField w then .din (typeField w) else .reg (raField w)

/-- Operand B of the word (R55). -/
def operandBField (w : BitVec 32) : Operand :=
  if bselField w then .din (typeField w) else .reg (rbField w)

/-- DIVMOD's word, illegal when RD = RE (R57 c). -/
def decodeDivmod (w : BitVec 32) : Decoded :=
  if rdField w = reField w then .illegal .sameDestinations
  else .command (.divmod (rdField w) (reField w) (operandAField w) (operandBField w))

/-- The opcode map (R52), with the fields each command uses (R56). -/
def decodeOp (w : BitVec 32) : Decoded :=
  match opField w with
  | 0x01#6 => .command (.mov (rdField w) (operandAField w))
  | 0x02#6 => .command (.pair (rdField w))
  | 0x03#6 => .command (.cvtf32 (rdField w))
  | 0x04#6 => .command (.cvtf64 (rdField w))
  | 0x05#6 => .command (.rdw (operandAField w))
  | 0x06#6 => .command (.trunc (typeField w) (operandAField w))
  | 0x07#6 => .command (.tof32 (operandAField w))
  | 0x08#6 => .command (.tof64 (operandAField w))
  | 0x09#6 => .command (.tobool (operandAField w))
  | 0x10#6 => .command (.add (rdField w) (operandAField w) (operandBField w))
  | 0x11#6 => .command (.sub (rdField w) (operandAField w) (operandBField w))
  | 0x12#6 => .command (.neg (rdField w) (operandAField w))
  | 0x13#6 => .command (.inc (rdField w) (operandAField w))
  | 0x14#6 => .command (.dec (rdField w) (operandAField w))
  | 0x15#6 => .command (.not (rdField w) (operandAField w))
  | 0x16#6 => .command (.and (rdField w) (operandAField w) (operandBField w))
  | 0x17#6 => .command (.or (rdField w) (operandAField w) (operandBField w))
  | 0x18#6 => .command (.xor (rdField w) (operandAField w) (operandBField w))
  | 0x19#6 => .command (.eq (operandAField w) (operandBField w))
  | 0x1A#6 => .command (.ne (operandAField w) (operandBField w))
  | 0x1B#6 => .command (.lt (operandAField w) (operandBField w))
  | 0x1C#6 => .command (.le (operandAField w) (operandBField w))
  | 0x1D#6 => .command (.gt (operandAField w) (operandBField w))
  | 0x1E#6 => .command (.ge (operandAField w) (operandBField w))
  | 0x20#6 => .command (.mul (rdField w) (operandAField w) (operandBField w))
  | 0x24#6 => .command (.div (rdField w) (operandAField w) (operandBField w))
  | 0x25#6 => .command (.mod (rdField w) (operandAField w) (operandBField w))
  | 0x26#6 => decodeDivmod w
  | 0x28#6 => .command (.shl (rdField w) (operandAField w) (operandBField w))
  | 0x29#6 => .command (.shr (rdField w) (operandAField w) (operandBField w))
  | _ => .illegal .unassignedOp

/-- The decoder (R59). -/
def decode (w : BitVec 32) : Decoded :=
  if rsvField w = 0 then decodeOp w else .illegal .reservedBits

/-- The decoder on a word numbered as the opcode table numbers it. A command is one 32-bit word (R60), so there is none
of more bits; the bits above `nbits` are 0. -/
def decodeTableWord (nbits w : Nat) : Option Instr :=
  if nbits ≤ 32 then (decode (BitVec.ofNat 32 (w % 2 ^ nbits))).toOption else none

/-! The encoder. -/

/-- NW of a width (R53). -/
def NativeWidth.code : NativeWidth → BitVec 2
  | .w8 => 0b00#2
  | .w16 => 0b01#2
  | .w32 => 0b10#2
  | .w64 => 0b11#2

/-- The 3 bits of a register field (R51). -/
def regBits (r : Reg) : BitVec 3 := BitVec.ofFin r

/-- The word of CMD32 with the given fields and RSV = 0 (R50). -/
def cmdWord (op : BitVec 6) (rd ra rb re : Reg) (asel bsel : Bool) (t : NativeType) : BitVec 32 :=
  0#9 ++ BitVec.ofBool t.signed ++ t.width.code ++ BitVec.ofBool bsel ++ BitVec.ofBool asel ++ regBits re
    ++ regBits rb ++ regBits ra ++ regBits rd ++ op

/-- The select bit of an operand (R55). -/
def Operand.sel : Operand → Bool
  | .reg _ => false
  | .din _ => true

/-- The register index of an operand; an ignored field is emitted as 0 (R61). -/
def Operand.index : Operand → Reg
  | .reg r => r
  | .din _ => 0

/-- NW = 00, NS = 0: what is emitted where no operand is a DIN operand (R61). -/
def NativeType.emitted : NativeType := ⟨.w8, false⟩

/-- The type the word carries for one operand. -/
def Operand.typeOr (t : NativeType) : Operand → NativeType
  | .reg _ => t
  | .din t' => t'

/-- The word of a command that uses RD and A. -/
def encodeUnary (op : BitVec 6) (rd : Reg) (a : Operand) : BitVec 32 :=
  cmdWord op rd a.index 0 0 a.sel false (a.typeOr .emitted)

/-- The word of a command that uses RD, A and B; `re` is 0 but for DIVMOD. -/
def encodeBinary (op : BitVec 6) (rd re : Reg) (a b : Operand) : BitVec 32 :=
  cmdWord op rd a.index b.index re a.sel b.sel (a.typeOr (b.typeOr .emitted))

/-- OP of a command (R52). -/
def Instr.opcode : Instr → BitVec 6
  | .mov _ _ => 0x01#6
  | .pair _ => 0x02#6
  | .cvtf32 _ => 0x03#6
  | .cvtf64 _ => 0x04#6
  | .rdw _ => 0x05#6
  | .trunc _ _ => 0x06#6
  | .tof32 _ => 0x07#6
  | .tof64 _ => 0x08#6
  | .tobool _ => 0x09#6
  | .add _ _ _ => 0x10#6
  | .sub _ _ _ => 0x11#6
  | .neg _ _ => 0x12#6
  | .inc _ _ => 0x13#6
  | .dec _ _ => 0x14#6
  | .not _ _ => 0x15#6
  | .and _ _ _ => 0x16#6
  | .or _ _ _ => 0x17#6
  | .xor _ _ _ => 0x18#6
  | .eq _ _ => 0x19#6
  | .ne _ _ => 0x1A#6
  | .lt _ _ => 0x1B#6
  | .le _ _ => 0x1C#6
  | .gt _ _ => 0x1D#6
  | .ge _ _ => 0x1E#6
  | .mul _ _ _ => 0x20#6
  | .div _ _ _ => 0x24#6
  | .mod _ _ _ => 0x25#6
  | .divmod _ _ _ _ => 0x26#6
  | .shl _ _ _ => 0x28#6
  | .shr _ _ _ => 0x29#6

/-- The word of a command, with every ignored field 0 (R50, R52, R56, R61). -/
def encode (i : Instr) : BitVec 32 :=
  match i with
  | .mov rd a => encodeUnary i.opcode rd a
  | .pair rd => cmdWord i.opcode rd 0 0 0 false false .emitted
  | .cvtf32 rd => cmdWord i.opcode rd 0 0 0 false false .emitted
  | .cvtf64 rd => cmdWord i.opcode rd 0 0 0 false false .emitted
  | .rdw a => encodeUnary i.opcode 0 a
  | .trunc t a => cmdWord i.opcode 0 a.index 0 0 a.sel false t
  | .tof32 a => encodeUnary i.opcode 0 a
  | .tof64 a => encodeUnary i.opcode 0 a
  | .tobool a => encodeUnary i.opcode 0 a
  | .add rd a b => encodeBinary i.opcode rd 0 a b
  | .sub rd a b => encodeBinary i.opcode rd 0 a b
  | .neg rd a => encodeUnary i.opcode rd a
  | .inc rd a => encodeUnary i.opcode rd a
  | .dec rd a => encodeUnary i.opcode rd a
  | .not rd a => encodeUnary i.opcode rd a
  | .and rd a b => encodeBinary i.opcode rd 0 a b
  | .or rd a b => encodeBinary i.opcode rd 0 a b
  | .xor rd a b => encodeBinary i.opcode rd 0 a b
  | .eq a b => encodeBinary i.opcode 0 0 a b
  | .ne a b => encodeBinary i.opcode 0 0 a b
  | .lt a b => encodeBinary i.opcode 0 0 a b
  | .le a b => encodeBinary i.opcode 0 0 a b
  | .gt a b => encodeBinary i.opcode 0 0 a b
  | .ge a b => encodeBinary i.opcode 0 0 a b
  | .mul rd a b => encodeBinary i.opcode rd 0 a b
  | .div rd a b => encodeBinary i.opcode rd 0 a b
  | .mod rd a b => encodeBinary i.opcode rd 0 a b
  | .divmod rd re a b => encodeBinary i.opcode rd re a b
  | .shl rd a b => encodeBinary i.opcode rd 0 a b
  | .shr rd a b => encodeBinary i.opcode rd 0 a b

/-! The fields a command uses (R56), as masks over the word. -/

/-- OP and RSV, which every command is decoded from. -/
def maskBase : BitVec 32 := 0xFF80003F#32

/-- RD. -/
def maskRD : BitVec 32 := 0x000001C0#32

/-- RE. -/
def maskRE : BitVec 32 := 0x00038000#32

/-- NW and NS. -/
def maskType : BitVec 32 := 0x00700000#32

/-- ASEL, with RA when it is 0 and NW and NS when it is 1. -/
def maskA : Operand → BitVec 32
  | .reg _ => 0x00040E00#32
  | .din _ => 0x00740000#32

/-- BSEL, with RB when it is 0 and NW and NS when it is 1. -/
def maskB : Operand → BitVec 32
  | .reg _ => 0x00087000#32
  | .din _ => 0x00780000#32

/-- The bits of the word a command uses (the table of R56, RA and RB by R55 only where their select bit is 0). -/
def Instr.usedMask : Instr → BitVec 32
  | .mov _ a => maskBase ||| maskRD ||| maskA a
  | .pair _ => maskBase ||| maskRD
  | .cvtf32 _ => maskBase ||| maskRD
  | .cvtf64 _ => maskBase ||| maskRD
  | .rdw a => maskBase ||| maskA a
  | .trunc _ a => maskBase ||| maskType ||| maskA a
  | .tof32 a => maskBase ||| maskA a
  | .tof64 a => maskBase ||| maskA a
  | .tobool a => maskBase ||| maskA a
  | .add _ a b => maskBase ||| maskRD ||| maskA a ||| maskB b
  | .sub _ a b => maskBase ||| maskRD ||| maskA a ||| maskB b
  | .neg _ a => maskBase ||| maskRD ||| maskA a
  | .inc _ a => maskBase ||| maskRD ||| maskA a
  | .dec _ a => maskBase ||| maskRD ||| maskA a
  | .not _ a => maskBase ||| maskRD ||| maskA a
  | .and _ a b => maskBase ||| maskRD ||| maskA a ||| maskB b
  | .or _ a b => maskBase ||| maskRD ||| maskA a ||| maskB b
  | .xor _ a b => maskBase ||| maskRD ||| maskA a ||| maskB b
  | .eq a b => maskBase ||| maskA a ||| maskB b
  | .ne a b => maskBase ||| maskA a ||| maskB b
  | .lt a b => maskBase ||| maskA a ||| maskB b
  | .le a b => maskBase ||| maskA a ||| maskB b
  | .gt a b => maskBase ||| maskA a ||| maskB b
  | .ge a b => maskBase ||| maskA a ||| maskB b
  | .mul _ a b => maskBase ||| maskRD ||| maskA a ||| maskB b
  | .div _ a b => maskBase ||| maskRD ||| maskA a ||| maskB b
  | .mod _ a b => maskBase ||| maskRD ||| maskA a ||| maskB b
  | .divmod _ _ a b => maskBase ||| maskRD ||| maskRE ||| maskA a ||| maskB b
  | .shl _ a b => maskBase ||| maskRD ||| maskA a ||| maskB b
  | .shr _ a b => maskBase ||| maskRD ||| maskA a ||| maskB b

end Sys2Proof
end

