-- ==== Sys2Proof/Machine/Effects.lean ====
section
/-! DEFINITION. What a command commits, from its latched DIN words and operand values: the commit edge of an in-flight command reads these (10_state.md R30, 70_reset_and_hazards.md R182). -/

namespace Sys2Proof.Machine

/-- What a command commits; `a` and `b` are its operand values, where it reads them. -/
def effectOf (i : Instr) (dinHi dinLo : Word) (a b : Wide) : Effect :=
  match i with
  | .mov rd _ => effectMov rd a
  | .pair rd => effectPair rd dinHi dinLo
  | .cvtf32 rd => effectCvtf32 rd dinLo
  | .cvtf64 rd => effectCvtf64 rd dinLo
  | .rdw _ => effectRdw a
  | .trunc t _ => effectTrunc t a
  | .tof32 _ => effectTof32 a
  | .tof64 _ => effectTof64 a
  | .tobool _ => effectTobool a
  | .add rd _ _ => effectAdd rd a b
  | .sub rd _ _ => effectSub rd a b
  | .neg rd _ => effectNeg rd a
  | .inc rd _ => effectInc rd a
  | .dec rd _ => effectDec rd a
  | .not rd _ => effectNot rd a
  | .and rd _ _ => effectAnd rd a b
  | .or rd _ _ => effectOr rd a b
  | .xor rd _ _ => effectXor rd a b
  | .eq _ _ => effectEq a b
  | .ne _ _ => effectNe a b
  | .lt _ _ => effectLt a b
  | .le _ _ => effectLe a b
  | .gt _ _ => effectGt a b
  | .ge _ _ => effectGe a b
  | .mul rd _ _ => effectMul rd a b
  | .div rd _ _ => effectDiv rd a b
  | .mod rd _ _ => effectMod rd a b
  | .divmod rd re _ _ => effectDivmod rd re a b
  | .shl rd _ _ => effectShl rd a b
  | .shr rd _ _ => effectShr rd a b

end Sys2Proof.Machine
end

