-- ==== Sys2Proof/Machine/Clock.lean ====
section
/-! DEFINITION. The block one rising clock edge at a time (70_reset_and_hazards.md R180 to R186), with the input ports as an argument (10_state.md R33): reset, acceptance, the busy interval and commit. -/

namespace Sys2Proof.Machine

/-- Whether OP is DIV, MOD or DIVMOD, whose latency `LAT_DIV_MAX` bounds (00_scope.md R7). -/
def isDivideOp (op : BitVec 6) : Bool := op == 0x24#6 || op == 0x25#6 || op == 0x26#6

/-- `LAT` (00_scope.md R7, R183): at least 1, and at most the bound for the command; free otherwise (log 6). -/
def latency (cmd : BitVec 32) (dinHi dinLo : Word) (a b : Option Wide) : Nat :=
  1 + min (Config.latRaw cmd dinHi dinLo a b) (if isDivideOp (opField cmd) then Config.latDivSlack else Config.latSlack)

/-- The divider at acceptance: started for DIV, MOD and DIVMOD, but not for a zero divisor, which is decided before
any iteration (60_exceptions.md R163). -/
def startDivider (cmd : BitVec 32) (a b : Option Wide) : Option Divider :=
  match a, b with
  | some n, some d => if isDivideOp (opField cmd) && d.toNat != 0 then some (Divider.start n d) else none
  | _, _ => none

/-- What the unit latches at acceptance (R181): the word, DIN, and the operand values the command reads. An ILLEGAL
word reads no operand (30_encoding.md R57). -/
def State.latch (s : State) : InFlight :=
  let i := (decode s.pins.cmd).toOption
  let a := (i.bind Instr.operandA).map (·.value s)
  let b := (i.bind Instr.operandB).map (·.value s)
  { cmd := s.pins.cmd
    dinHi := s.pins.dinHi
    dinLo := s.pins.dinLo
    a := a
    b := b
    divider := startDivider s.pins.cmd a b
    left := latency s.pins.cmd s.pins.dinHi s.pins.dinLo a b }

/-- The acceptance edge (R181): the latch is filled and BUSY rises. -/
def State.accept (s : State) : State :=
  { s with inflight := some s.latch, status := { s.status with busy := true }, done := false }

/-- A busy edge before the commit edge. The divider runs one iteration an edge (10_state.md R30; how its iterations
fall on edges is DESIGN CHOICE, log 8, safe: nothing reads them). -/
def InFlight.tick (f : InFlight) : InFlight :=
  { f with left := f.left - 1, divider := f.divider.map Divider.iterate }

/-- What an in-flight command commits: a fault for an ILLEGAL word (60_exceptions.md R162), else its effect on the
values latched at acceptance (10_state.md R30, R31). An operand the command does not read stands as 0 and is not used. -/
def InFlight.effect (f : InFlight) : Effect :=
  match decode f.cmd with
  | .command i => effectOf i f.dinHi f.dinLo (f.a.getD .zero) (f.b.getD .zero)
  | .illegal _ => .fault .illegal

/-- The commit edge (R182). Where BUSY stands with no command in flight, which no run reaches, BUSY falls (log 24). -/
def State.commit (s : State) : State :=
  match s.inflight with
  | some f => s.perform f.effect
  | none => s.endCommand false

/-- An edge while BUSY = 1: the commit edge if it is due, else one edge nearer to it (R182). -/
def State.busyEdge (s : State) : State :=
  match s.inflight with
  | some f => if f.left ≤ 1 then s.commit else { s with inflight := some f.tick, done := false }
  | none => s.commit

/-- One rising edge with `p` on the input ports. Reset comes first: it discards a command even on its commit edge
(R180; DEDUCED, log 17). -/
def clockEdge (p : Pins) (s : State) : State :=
  if p.rst then (s.drive p).resetEdge
  else if s.status.busy then (s.drive p).busyEdge
  else if p.cmdValid && (s.drive p).cmdReady then (s.drive p).accept
  else (s.drive p).hold

/-- One rising edge of the block alone (10_state.md R33): the input ports are a parameter, and the state is the block's. -/
def unitEdge (p : Pins) (b : Block) : Block := (clockEdge p { toBlock := b, pins := p, script := [] }).toBlock

/-- Rising edges in a row, one for each setting of the ports. -/
def clockEdges : List Pins → State → State
  | [], s => s
  | p :: ps, s => clockEdges ps (clockEdge p s)

end Sys2Proof.Machine
end

