-- ==== Sys2Proof/Machine/Sequence.lean ====
section
/-! DEFINITION. What one command-level step adds around the effect of a command (70_reset_and_hazards.md R189): reset, waiting, decoding, ILLEGAL, and the host moving on. -/

namespace Sys2Proof.Machine

/-- After an accepted command the host drives what it has next (R186; log 4). -/
def thenHostNext : Result → Result
  | .next t => .next t.hostNext
  | .fault r => .fault r
  | .refused r => .refused r

/-- An accepted word: decoded, and run from acceptance to commit; an ILLEGAL word commits a fault (60_exceptions.md R162). -/
def acceptAndRun (run : Instr → State → Result) (s : State) : Result :=
  match decode s.pins.cmd with
  | .command i => run i s
  | .illegal _ => .next (s.raise .illegal)

/-- One command-level step, with `run` giving a command its effect.
* `rst` high: a reset edge (R180), and the host goes on.
* BUSY: the command in flight commits; what the host offers waits (R185, R189).
* No command offered: the unit holds all state (60_exceptions.md R176), and the host goes on.
* FAULT: `cmd_ready` is 0 until reset, so an offered command waits (R187).
* Else the offered command is accepted and runs, and the host goes on. -/
def runStep (run : Instr → State → Result) (s : State) : Result :=
  if s.pins.rst then .next s.resetEdge.hostNext
  else if s.status.busy then .next s.commit
  else if !s.pins.cmdValid then .next s.hold.hostNext
  else if s.status.fault then .next s.hold
  else thenHostNext (acceptAndRun run s)

/-- What an answer leaves of the block. -/
def blockOf : Result → Host.Outcome Block Fault Refusal
  | .next t => .next t.toBlock
  | .fault r => .fault r
  | .refused r => .refused r

/-- The command-level step of the block alone (10_state.md R33): the command the host offers and its DIN words are a
parameter, and the state is the block's. -/
def blockStep (run : Instr → State → Result) (p : Pins) (b : Block) : Host.Outcome Block Fault Refusal :=
  blockOf (runStep run { toBlock := b, pins := p, script := [] })

/-- The end of a run (R190): the unit has committed what it accepted, and either a command faulted or the host has no
command left to offer. -/
def State.runEnded (s : State) : Bool :=
  !s.status.busy && (s.status.fault || (!s.pins.cmdValid && s.script.all (!·.cmdValid)))

/-- The host offers the command word `w` at the coming acceptance, with DIN as it stands. -/
def State.offer (s : State) (w : BitVec 32) : State :=
  { s with pins := { s.pins with rst := false, cmdValid := true, cmd := w } }

end Sys2Proof.Machine
end

