-- ==== Sys2Proof/Machine/Step.lean ====
section
/-! DEFINITION. The command-level step (70_reset_and_hazards.md R189), and the host offering one command. -/

namespace Sys2Proof.Machine

/-- One step: one command from acceptance to commit, or a reset edge, or waiting (R189; `runStep` says which). -/
def step (s : State) : Host.Outcome State Fault Refusal := runStep exec s

/-- The same step with its inputs as a parameter (10_state.md R33). -/
def unitStep (p : Pins) (b : Block) : Host.Outcome Block Fault Refusal := blockStep exec p b

/-- The block fetches nothing (10_state.md R23): a command comes from the host's pins. So this is `s` with the host
offering the word there (log 3, log 23). -/
def State.withFetchWord (s : State) (nbits w : Nat) : State := s.offer (BitVec.ofNat 32 (w % 2 ^ nbits))

end Sys2Proof.Machine
end

