-- ==== Sys2Proof/Machine/Assembler.lean ====
section
/-! DEFINITION. Assembler notation (30_encoding.md R61) and the pseudo-instructions with their expansions (R62). -/

namespace Sys2Proof

/-- The type suffix `<t>` (R61). -/
def NativeType.asm (t : NativeType) : String :=
  (if t.signed then "s" else "u") ++
    match t.width with
    | .w8 => "8"
    | .w16 => "16"
    | .w32 => "32"
    | .w64 => "64"

/-- `W0` to `W7` (R61). -/
def asmReg (r : Reg) : String := "W" ++ toString r.val

/-- An operand: a register or `DIN.<t>` (R61). -/
def Operand.asm : Operand → String
  | .reg r => asmReg r
  | .din t => "DIN." ++ t.asm

/-- `OP Wd, a` (R61). -/
def asmUnary (op : String) (rd : Reg) (a : Operand) : String := op ++ " " ++ asmReg rd ++ ", " ++ a.asm

/-- `OP Wd, a, b` (R61). -/
def asmBinary (op : String) (rd : Reg) (a b : Operand) : String := asmUnary op rd a ++ ", " ++ b.asm

/-- `OP a, b` (R61). -/
def asmCompare (op : String) (a b : Operand) : String := op ++ " " ++ a.asm ++ ", " ++ b.asm

/-- The assembler form of a command (R61). -/
def Instr.asm : Instr → String
  | .mov rd a => asmUnary "MOV" rd a
  | .pair rd => "PAIR " ++ asmReg rd
  | .cvtf32 rd => "CVTF32 " ++ asmReg rd
  | .cvtf64 rd => "CVTF64 " ++ asmReg rd
  | .rdw a => "RDW " ++ a.asm
  | .trunc t a => "TRUNC." ++ t.asm ++ " " ++ a.asm
  | .tof32 a => "TOF32 " ++ a.asm
  | .tof64 a => "TOF64 " ++ a.asm
  | .tobool a => "TOBOOL " ++ a.asm
  | .add rd a b => asmBinary "ADD" rd a b
  | .sub rd a b => asmBinary "SUB" rd a b
  | .neg rd a => asmUnary "NEG" rd a
  | .inc rd a => asmUnary "INC" rd a
  | .dec rd a => asmUnary "DEC" rd a
  | .not rd a => asmUnary "NOT" rd a
  | .and rd a b => asmBinary "AND" rd a b
  | .or rd a b => asmBinary "OR" rd a b
  | .xor rd a b => asmBinary "XOR" rd a b
  | .eq a b => asmCompare "EQ" a b
  | .ne a b => asmCompare "NE" a b
  | .lt a b => asmCompare "LT" a b
  | .le a b => asmCompare "LE" a b
  | .gt a b => asmCompare "GT" a b
  | .ge a b => asmCompare "GE" a b
  | .mul rd a b => asmBinary "MUL" rd a b
  | .div rd a b => asmBinary "DIV" rd a b
  | .mod rd a b => asmBinary "MOD" rd a b
  | .divmod rd re a b => "DIVMOD " ++ asmReg rd ++ ", " ++ asmReg re ++ ", " ++ a.asm ++ ", " ++ b.asm
  | .shl rd a b => asmBinary "SHL" rd a b
  | .shr rd a b => asmBinary "SHR" rd a b

/-- The condition of CMP (R62). -/
inductive Cond where
  | eq
  | ne
  | lt
  | le
  | gt
  | ge
  deriving DecidableEq, Repr

/-- The pseudo-instructions (R62); an immediate is given as an integer. -/
inductive Pseudo where
  | ldu (rd : Reg) (imm : Nat)
  | lds (rd : Reg) (imm : Int)
  | ldw (rd : Reg) (hi lo : Word)
  | clr (rd : Reg)
  | cpy (rd ra : Reg)
  | tst (a : Operand)
  | cmp (cc : Cond) (a b : Operand)
  deriving DecidableEq, Repr

/-- A command with the DIN words the host drives beside it; absent where the command needs none (R62 "-"). -/
structure Expansion where
  command : Instr
  dinHi : Option Word
  dinLo : Option Word
  deriving DecidableEq, Repr

/-- The compare command of a condition (R62). -/
def Cond.command (cc : Cond) (a b : Operand) : Instr :=
  match cc with
  | .eq => .eq a b
  | .ne => .ne a b
  | .lt => .lt a b
  | .le => .le a b
  | .gt => .gt a b
  | .ge => .ge a b

/-- The expansions (R62). -/
def Pseudo.expand : Pseudo → Expansion
  | .ldu rd imm => ⟨.mov rd (.din ⟨.w64, false⟩), none, some (BitVec.ofNat 64 imm)⟩
  | .lds rd imm => ⟨.mov rd (.din ⟨.w64, true⟩), none, some (BitVec.ofInt 64 imm)⟩
  | .ldw rd hi lo => ⟨.pair rd, some hi, some lo⟩
  | .clr rd => ⟨.mov rd (.din ⟨.w64, false⟩), none, some 0⟩
  | .cpy rd ra => ⟨.mov rd (.reg ra), none, none⟩
  | .tst a => ⟨.tobool a, none, none⟩
  | .cmp cc a b => ⟨cc.command a b, none, none⟩

/-- The host driving DIN for an expansion; a word it does not name stays as it is. -/
def Expansion.drive (x : Expansion) (s : Machine.State) : Machine.State :=
  { s with pins := { s.pins with dinHi := x.dinHi.getD s.pins.dinHi, dinLo := x.dinLo.getD s.pins.dinLo } }

end Sys2Proof
end

