-- ==== Sys2Proof/Machine/Platform.lean ====
section
/-! DEFINITION. The platform's open parameters at the block's edge (00_scope.md R7): the interrupt line (60_exceptions.md R169), a mapping of the ports (20_memory.md R44) and the arbitration of several hosts (R47). Nothing of the block reads them. -/

namespace Sys2Proof.Machine

/-- The interrupt line, if the platform makes one of `done` and `fault` (`PLATFORM_IRQ`, R169; log 13). -/
def State.irqLine (s : State) : Bool := Config.platformIrq s.done s.faultOut

/-- What a read of one of the platform's addresses shows, if it maps a port there (`PLATFORM_MAP`, R44; log 13). -/
def State.readMapped (s : State) (addr : Nat) : Option Word := Config.platformRead addr s.pins s.outputs

/-- A write to one of the platform's addresses: it drives the input ports as the platform maps them there, and reaches the
block in no other way; where no input port is mapped it drives nothing (`PLATFORM_MAP`, R44; log 13). -/
def State.writeMapped (s : State) (addr : Nat) (v : Word) : State :=
  s.drive ((Config.platformWrite addr v s.pins).getD s.pins)

/-- Take the first command of host `k`; nothing for an index past the hosts or a host at its end. -/
def takeFrom : Nat → List (List Pins) → Option (Pins × List (List Pins))
  | _, [] => none
  | 0, q :: qs =>
    match q with
    | [] => none
    | p :: ps => some (p, ps :: qs)
  | k + 1, q :: qs => (takeFrom k qs).map fun r => (r.1, q :: r.2)

/-- The sequence that `fuel` grants to the hosts' queues give, the n-th grant to host `grant n`; a grant to a host
with nothing to offer gives nothing. -/
def arbitrate (grant : Nat → Nat) : Nat → Nat → List (List Pins) → List Pins
  | 0, _, _ => []
  | fuel + 1, n, qs =>
    match takeFrom (grant n) qs with
    | none => arbitrate grant fuel (n + 1) qs
    | some (p, qs') => p :: arbitrate grant fuel (n + 1) qs'

/-- Several hosts on the one port, served by the platform's arbiter (`HOST_ARBITRATION`, R47): whatever sequence the
arbiter makes is what the port sees (log 20). -/
def State.withHosts (s : State) (fuel : Nat) (qs : List (List Pins)) : State :=
  { s with script := arbitrate Config.hostArbitration fuel 0 qs }

end Sys2Proof.Machine
end

