-- ==== Sys2Proof/Machine/Strict.lean ====
section
/-! DEFINITION. The spec's treatment of an unwritten register in a model (10_state.md R22, 60_exceptions.md R165, R166): the machine that stops with UNWRITTEN where the hardware reads unspecified bits and goes on. -/

namespace Sys2Proof.Machine

/-- A command under R166: it stops if it reads a register nothing has written since reset, and else is `exec`. -/
def strictExec (i : Instr) (s : State) : Result :=
  if i.readsUnwritten s then .fault .unwritten else exec i s

/-- The step under R166. ILLEGAL comes before UNWRITTEN and DIV_ZERO or SHIFT_RANGE after it (R165). -/
def strictStep (s : State) : Result := runStep strictExec s

end Sys2Proof.Machine
end

