-- ==== Sys2Proof/Safety.lean ====
section
/-! DEFINITION. The terms claims are stated in: what a commit leaves unchanged, the invariant of the block, agreement of states, and what a safe run is. -/

namespace Sys2Proof.Machine

/-! Frames: `s` is the state a command runs in, `t` the state after its commit. -/

/-- The command ended without a fault (20_memory.md R43, 70_reset_and_hazards.md R182): BUSY is 0, nothing is in flight,
`done` is up, and FAULT, FCODE and what the host drives are as before. -/
structure Ended (s t : State) : Prop where
  busy : t.status.busy = false
  inflight : t.inflight = none
  done : t.done = true
  fault : t.status.fault = s.status.fault
  fcode : t.status.fcode = s.status.fcode
  pins : t.pins = s.pins
  script : t.script = s.script

/-- Every wide register outside `ds` holds what it held, and is written or unwritten as it was. -/
def RegsKept (s t : State) (ds : List Reg) : Prop :=
  ∀ r, r ∉ ds → t.reg r = s.reg r ∧ t.written r = s.written r

/-- DOUT_HI and DOUT_LO hold what they held. -/
def DoutKept (s t : State) : Prop := t.doutHi = s.doutHi ∧ t.doutLo = s.doutLo

/-- A commit that writes the wide registers `ds` and no other wide register, and neither F nor DOUT. C is not spoken of. -/
structure WroteRegs (s t : State) (ds : List Reg) : Prop where
  ended : Ended s t
  others : RegsKept s t ds
  written : ∀ r ∈ ds, t.written r = true
  f : t.status.f = s.status.f
  dout : DoutKept s t

/-- A commit that writes F and nothing else. What F becomes is not spoken of. -/
structure WroteF (s t : State) : Prop where
  ended : Ended s t
  regs : RegsKept s t []
  c : t.status.c = s.status.c
  dout : DoutKept s t

/-- A commit that writes DOUT_HI and DOUT_LO and nothing else. -/
structure WroteDout (s t : State) (h l : Word) : Prop where
  ended : Ended s t
  regs : RegsKept s t []
  f : t.status.f = s.status.f
  c : t.status.c = s.status.c
  hi : t.doutHi = h
  lo : t.doutLo = l

/-- A commit that takes a fault (60_exceptions.md R161): FAULT, FCODE and BUSY are written, and nothing else is. -/
structure Faulted (s t : State) (code : FCode) : Prop where
  fault : t.status.fault = true
  fcode : t.status.fcode = code
  busy : t.status.busy = false
  regs : RegsKept s t []
  f : t.status.f = s.status.f
  c : t.status.c = s.status.c
  dout : DoutKept s t
  inflight : t.inflight = none
  done : t.done = false
  pins : t.pins = s.pins
  script : t.script = s.script

/-- The block's own state is the same; what the host drives may differ (10_state.md R28, R33). -/
structure SameUnit (s t : State) : Prop where
  regs : t.regs = s.regs
  status : t.status = s.status
  doutHi : t.doutHi = s.doutHi
  doutLo : t.doutLo = s.doutLo
  inflight : t.inflight = s.inflight
  done : t.done = s.done

/-- What a host can read, and the wide registers, are the same (60_exceptions.md R175); BUSY and `done` may differ. -/
structure SameResults (s t : State) : Prop where
  regs : t.regs = s.regs
  f : t.status.f = s.status.f
  c : t.status.c = s.status.c
  fault : t.status.fault = s.status.fault
  fcode : t.status.fcode = s.status.fcode
  dout : DoutKept s t

/-! Rounding. -/

/-- The distance between a finite float and the integer `x`, both times `2^one`: the float with fields `e` and `m` has the
value `(2^frac + m) · 2^(e - one)` (00_scope.md R11). -/
def floatDistance (frac one x e m : Nat) : Nat := ((2 ^ e * (2 ^ frac + m) : Nat) - (2 ^ one * x : Nat) : Int).natAbs

/-- The normal float with fields `e` and `m` is the one nearest to `x`, with an even fraction if another is as near
(40_conversion.md R73: "nearest representable value", round half to even). -/
def NearestEven (frac one emax x e m : Nat) : Prop :=
  1 ≤ e ∧ e < emax ∧ m < 2 ^ frac ∧
    ∀ e' m', 1 ≤ e' → e' < emax → m' < 2 ^ frac →
      floatDistance frac one x e m ≤ floatDistance frac one x e' m' ∧
      (floatDistance frac one x e m = floatDistance frac one x e' m' → (e' = e ∧ m' = m) ∨ m % 2 = 0)

/-! The invariant. -/

/-- The in-flight command is one the unit latched in this state (10_state.md R30, R31): its operand values are those of
the registers and of its own DIN, an edge is left until commit, and its divider is one the reference algorithm reaches,
with at most 128 iterations left (00_scope.md R5). -/
structure InFlight.Latched (f : InFlight) (s : State) : Prop where
  left : 1 ≤ f.left
  a : f.a = ((decode f.cmd).toOption.bind Instr.operandA).map (·.value (s.drive { s.pins with dinLo := f.dinLo }))
  b : f.b = ((decode f.cmd).toOption.bind Instr.operandB).map (·.value (s.drive { s.pins with dinLo := f.dinLo }))
  divider : ∀ v, f.divider = some v →
    v.left ≤ Config.maxIterations ∧
    ∃ n d k, f.a = some n ∧ f.b = some d ∧ d.toNat ≠ 0 ∧ v = Divider.run k (Divider.start n d)

/-- What holds of the block in every state a run reaches: BUSY says whether a command is in flight (R26, R30); FAULT says
whether FCODE is a fault's code (60_exceptions.md R160); no command is in flight after a fault (R168); `done` is up only
just after a commit without a fault (10_state.md R29); and a command in flight is a latched one. -/
structure Inv (s : State) : Prop where
  busy : s.status.busy = s.inflight.isSome
  fault : s.status.fault = true ↔ s.status.fcode ≠ .none
  stopped : s.status.fault = true → s.inflight = none
  done : s.done = true → s.inflight = none ∧ s.status.fault = false
  latched : ∀ f, s.inflight = some f → f.Latched s

/-! Safe runs. -/

/-- The states agree on everything but the values of registers nothing has written since reset (10_state.md R22). -/
structure AgreeOnWritten (s t : State) : Prop where
  marks : ∀ r, t.written r = s.written r
  values : ∀ r, s.written r = true → t.reg r = s.reg r
  status : t.status = s.status
  doutHi : t.doutHi = s.doutHi
  doutLo : t.doutLo = s.doutLo
  inflight : t.inflight = s.inflight
  done : t.done = s.done
  pins : t.pins = s.pins
  script : t.script = s.script

/-- A step is safe when it reads no unwritten register (60_exceptions.md R166): claims about such steps rest on no
unspecified bit. -/
def SafeStep (s : State) : Prop := ∃ t, strictStep s = .next t

/-- `k` safe steps in a row lead from `s` to `t`. -/
def SafeRun : Nat → State → State → Prop
  | 0, s, t => t = s
  | k + 1, s, t => ∃ u, strictStep s = .next u ∧ SafeRun k u t

end Sys2Proof.Machine
end

