-- ==== Sys2Proof/Certificates/Slice0/Obligations.lean ====
section
/-! DEFINITION. The statements for the provers. Each docstring says which rule of spec/ it formalises; `V(x)` of 00_scope.md R9 is `x.toNat`. -/

open Sys2Proof Sys2Proof.Machine

/-! Encoding (30_encoding.md). -/

/-- R50 to R61: encoding then decoding gives every well-formed command back, with every operand. -/
def Obligations.DecodeOfEncodeGivesTheCommand : Prop :=
  ∀ i : Instr, i.wellFormed = true → decode (encode i) = .command i

/-- R56: a legal word means exactly what the fields its command uses say: they are those of the command's own word, and
no other bit changes the command or makes it illegal. -/
def Obligations.IgnoredFieldsChangeNothing : Prop :=
  ∀ (w : BitVec 32) (i : Instr), decode w = .command i →
    i.wellFormed = true ∧
    encode i &&& i.usedMask = w &&& i.usedMask ∧
    ∀ w' : BitVec 32, w' &&& i.usedMask = w &&& i.usedMask → decode w' = .command i

/-- R57, R162: the illegal words, by OP value, reserved bit or DIVMOD with RD = RE, and nothing else; an accepted one
reads no operand (the strict machine does not stop) and commits FCODE = ILLEGAL and nothing else. -/
def Obligations.IllegalWordsCommitIllegal : Prop :=
  (∀ w : BitVec 32, (∃ why, decode w = .illegal why) ↔
    ((w.extractLsb' 0 6).toNat = 0x00 ∨ (0x0A ≤ (w.extractLsb' 0 6).toNat ∧ (w.extractLsb' 0 6).toNat ≤ 0x0F) ∨
      (w.extractLsb' 0 6).toNat = 0x1F ∨ (0x21 ≤ (w.extractLsb' 0 6).toNat ∧ (w.extractLsb' 0 6).toNat ≤ 0x23) ∨
      (w.extractLsb' 0 6).toNat = 0x27 ∨ 0x2A ≤ (w.extractLsb' 0 6).toNat) ∨
    w.extractLsb' 23 9 ≠ 0 ∨
    ((w.extractLsb' 0 6).toNat = 0x26 ∧ w.extractLsb' 6 3 = w.extractLsb' 15 3)) ∧
  ∀ s : State, s.cmdReady = true → s.pins.cmdValid = true → (∃ why, decode s.pins.cmd = .illegal why) →
    ∃ t, step s = .next t.hostNext ∧ Faulted s t .illegal ∧ strictStep s = step s

/-- R61's example words and 95_test_vectors.md's, decoded. A sanity statement. -/
def Obligations.SpecExampleWordsDecode : Prop :=
  decode 0x000022D0#32 = .command (.add 3 (.reg 1) (.reg 2)) ∧
  decode 0x003802D0#32 = .command (.add 3 (.reg 1) (.din ⟨.w64, false⟩)) ∧
  decode 0x00440081#32 = .command (.mov 2 (.din ⟨.w8, true⟩)) ∧
  decode 0x000222E6#32 = .command (.divmod 3 4 (.reg 1) (.reg 2)) ∧
  decode 0x00600A06#32 = .command (.trunc ⟨.w32, true⟩ (.reg 5)) ∧
  decode 0x000080E6#32 = .command (.divmod 3 1 (.reg 0) (.reg 0)) ∧
  decode 0x00000000#32 = .illegal .unassignedOp ∧
  decode 0x0000001F#32 = .illegal .unassignedOp ∧
  decode 0x00800010#32 = .illegal .reservedBits ∧
  decode 0x00008066#32 = .illegal .sameDestinations

/-- R53, R55: operand A is W[RA] where ASEL (bit 18) is 0, else DIN_LO promoted by NW (bits 21:20, widths 8, 16, 32, 64)
and NS (bit 22); B likewise by BSEL (bit 19) and RB. The model fault UNWRITTEN applies exactly where a register so read
is unwritten. -/
def Obligations.OperandsResolveFromTheWord : Prop :=
  (∀ c : BitVec 2, (NativeWidth.ofCode c).bits = 8 * 2 ^ c.toNat) ∧
  ∀ (s : State) (i : Instr), decode s.pins.cmd = .command i →
    (∀ a, i.operandA = some a → a.value s =
      if s.pins.cmd.getLsbD 18 then
        (if s.pins.cmd.getLsbD 22 then promoteS (.ofCode (s.pins.cmd.extractLsb' 20 2)) s.pins.dinLo
         else promoteU (.ofCode (s.pins.cmd.extractLsb' 20 2)) s.pins.dinLo)
      else s.reg (s.pins.cmd.extractLsb' 9 3).toFin) ∧
    (∀ b, i.operandB = some b → b.value s =
      if s.pins.cmd.getLsbD 19 then
        (if s.pins.cmd.getLsbD 22 then promoteS (.ofCode (s.pins.cmd.extractLsb' 20 2)) s.pins.dinLo
         else promoteU (.ofCode (s.pins.cmd.extractLsb' 20 2)) s.pins.dinLo)
      else s.reg (s.pins.cmd.extractLsb' 12 3).toFin) ∧
    (strictExec i s = .fault .unwritten ↔
      (i.operandA.isSome = true ∧ s.pins.cmd.getLsbD 18 = false ∧ s.written (s.pins.cmd.extractLsb' 9 3).toFin = false) ∨
      (i.operandB.isSome = true ∧ s.pins.cmd.getLsbD 19 = false ∧ s.written (s.pins.cmd.extractLsb' 12 3).toFin = false))

/-! The step, reset and the invariant. -/

/-- A step runs the decoded command (70_reset_and_hazards.md R181, R189): when the block is ready and the host offers a word
that decodes to `i`, the step is `exec i`, and then the host drives what it has next; nothing of the block changes by that. -/
def Obligations.StepRunsTheDecodedCommand : Prop :=
  ∀ (s t : State) (i : Instr), s.cmdReady = true → s.pins.cmdValid = true → decode s.pins.cmd = .command i →
    exec i s = .next t →
    step s = .next t.hostNext ∧ SameUnit t t.hostNext ∧
    (t.script = [] → t.hostNext.pins = .idle ∧ t.hostNext.script = []) ∧
    ∀ p ps, t.script = p :: ps → t.hostNext.pins = p ∧ t.hostNext.script = ps

/-- Every state has a next one: no step stops (60_exceptions.md R161, R166, R177: an ILLEGAL word, a faulting command and a
command that reads an unwritten register all leave the hardware in a next state). -/
def Obligations.StepAlwaysAnswersNext : Prop := ∀ s : State, ∃ t, step s = .next t

/-- R180: an edge with `rst = 1` discards the command in flight, clears STATUS (BUSY, FAULT, FCODE, F, C), DOUT and `done`
and makes every wide register unwritten; `cmd_ready` is 0 in that cycle; one such edge is enough, and the next edge with
`rst = 0` accepts a command. -/
def Obligations.ResetEdgeMakesTheBlockFresh : Prop :=
  ∀ (s : State) (p : Pins), p.rst = true →
    (clockEdge p s).inflight = none ∧ (clockEdge p s).statusWord = 0 ∧ (clockEdge p s).doutHi = 0 ∧
    (clockEdge p s).doutLo = 0 ∧ (∀ r, (clockEdge p s).written r = false) ∧ (clockEdge p s).done = false ∧
    ((s.drive p).cmdReady) = false ∧
    ∀ p' : Pins, p'.rst = false → p'.cmdValid = true →
      ∃ f, (clockEdge p' (clockEdge p s)).inflight = some f ∧ f.cmd = p'.cmd ∧
        (clockEdge p' (clockEdge p s)).status.busy = true

/-- The state after reset (the table of R180): what the spec gives a value. The wide registers' values are the model's own
(log 1) and are not spoken of. -/
def Obligations.ResetStateHoldsTheSpecValues : Prop :=
  State.reset.statusWord = 0 ∧ State.reset.status.busy = false ∧ State.reset.status.fault = false ∧
  State.reset.status.fcode = .none ∧ State.reset.status.f = false ∧ State.reset.status.c = false ∧
  State.reset.doutHi = 0 ∧ State.reset.doutLo = 0 ∧ State.reset.inflight = none ∧ State.reset.done = false ∧
  ∀ r, State.reset.written r = false

/-- The invariant holds right after reset. -/
def Obligations.ResetMeetsTheInvariant : Prop := Inv State.reset

/-- The invariant (10_state.md R26, R30, R31; 60_exceptions.md R160, R168; R29) is kept by every command-level step, from
every state that meets it. -/
def Obligations.EveryStepKeepsTheInvariant : Prop := ∀ s t : State, Inv s → step s = .next t → Inv t

/-- The same invariant is kept by every clock edge, whatever the host drives. -/
def Obligations.EveryEdgeKeepsTheInvariant : Prop := ∀ (s : State) (p : Pins), Inv s → Inv (clockEdge p s)

/-- STATUS as the host reads it (10_state.md R26): BUSY, FAULT, FCODE, F and C at their bits, the rest 0. -/
def Obligations.StatusWordLayout : Prop :=
  ∀ s : State,
    s.statusWord.getLsbD 0 = s.status.busy ∧ s.statusWord.getLsbD 1 = s.status.fault ∧
    s.statusWord.extractLsb' 2 4 = s.status.fcode.code ∧
    s.statusWord.getLsbD 6 = s.status.f ∧ s.statusWord.getLsbD 7 = s.status.c ∧
    s.statusWord.extractLsb' 8 24 = 0

/-! Faults (60_exceptions.md). -/

/-- R161: a command that faults, an ILLEGAL word among them, writes FAULT, FCODE and BUSY and nothing else; `done` does not
pulse, `fault` goes high, and `cmd_ready` is 0 from then on, whatever the host drives but reset. -/
def Obligations.FaultingCommandWritesStatusOnly : Prop :=
  (∀ (i : Instr) (s t : State), exec i s = .next t → s.status.fault = false → t.status.fault = true →
    Faulted s t t.status.fcode ∧ t.status.fcode ≠ .none) ∧
  ∀ s t : State, s.cmdReady = true → s.pins.cmdValid = true → step s = .next t → t.status.fault = true →
    (∃ u, Faulted s u u.status.fcode ∧ u.status.fcode ≠ .none ∧ t = u.hostNext ∧ SameUnit u t) ∧
    t.faultOut = true ∧
    ∀ ps : List Pins, (∀ p ∈ ps, p.rst = false) → (clockEdges ps t).cmdReady = false

/-- R160: the three faults, by the FCODE field of STATUS, each with its cause, and no other code. -/
def Obligations.OnlyThreeCausesOfFault : Prop :=
  ∀ s t : State, s.cmdReady = true → s.pins.cmdValid = true → s.status.fcode = .none → step s = .next t →
    (t.statusWord.extractLsb' 2 4 = 1#4 ↔ ∃ why, decode s.pins.cmd = .illegal why) ∧
    (t.statusWord.extractLsb' 2 4 = 2#4 ↔ ∃ i b, decode s.pins.cmd = .command i ∧ i.operandB = some b ∧
      (opField s.pins.cmd = 0x24#6 ∨ opField s.pins.cmd = 0x25#6 ∨ opField s.pins.cmd = 0x26#6) ∧ (b.value s).toNat = 0) ∧
    (t.statusWord.extractLsb' 2 4 = 3#4 ↔ ∃ i b, decode s.pins.cmd = .command i ∧ i.operandB = some b ∧
      (opField s.pins.cmd = 0x28#6 ∨ opField s.pins.cmd = 0x29#6) ∧ 128 ≤ (b.value s).toNat) ∧
    (t.statusWord.extractLsb' 2 4).toNat ≤ 3 ∧
    (t.status.fault = true ↔ t.statusWord.extractLsb' 2 4 ≠ 0#4)

/-- R187 (and 60_exceptions.md R168): after a fault `cmd_ready` stays 0 and FAULT and FCODE stand until reset, whatever the
host drives; a host that offers a command and waits waits forever. -/
def Obligations.OfferAfterFaultWaitsForever : Prop :=
  ∀ s : State, s.status.fault = true → s.status.busy = false → s.inflight = none →
    (∀ ps : List Pins, (∀ p ∈ ps, p.rst = false) →
      (clockEdges ps s).cmdReady = false ∧ SameResults s (clockEdges ps s) ∧ (clockEdges ps s).inflight = none) ∧
    (s.pins.rst = false → s.pins.cmdValid = true →
      ∀ n, ∃ t, Host.Core.run Sys2Proof.core n s = .next t ∧ t.pins = s.pins ∧ t.script = s.script ∧ SameResults s t)

/-- R166 (R165, 10_state.md R22): the strict machine stops with UNWRITTEN exactly when an accepted legal command reads an
unwritten register, and else does what the step does; the step, which follows the hardware, goes on there. -/
def Obligations.StrictStopsExactlyOnUnwrittenReads : Prop :=
  ∀ s : State,
    (strictStep s = .fault .unwritten ↔
      s.cmdReady = true ∧ s.pins.cmdValid = true ∧ ∃ i, decode s.pins.cmd = .command i ∧ i.readsUnwritten s = true) ∧
    (strictStep s ≠ .fault .unwritten → strictStep s = step s) ∧
    (strictStep s = .fault .unwritten → ∃ t, step s = .next t ∧ t.status.busy = false ∧ t.inflight = none)

/-- R166, "no claim can rest on the value of an unwritten register": two states that differ only in the values of unwritten
registers make the same safe runs, to states that again differ only so. -/
def Obligations.SafeRunsIgnoreUnwrittenValues : Prop :=
  ∀ (k : Nat) (s s' t : State), AgreeOnWritten s s' → SafeRun k s t →
    ∃ t', SafeRun k s' t' ∧ AgreeOnWritten t t'

/-! What commands write, over all commands. -/

/-- The writes column of R52, with R21, R24, R25, R27: F changes only by TOBOOL and the comparisons, C only by ADD, SUB,
NEG, INC and DEC, DOUT only by RDW, TRUNC, TOF32 and TOF64, a wide register only as RD of a command that has one or as RE
of DIVMOD; and BUSY is 0 and nothing in flight after the commit. -/
def Obligations.CommandsWriteOnlyTheirColumn : Prop :=
  ∀ (i : Instr) (s t : State), exec i s = .next t →
    (t.status.f ≠ s.status.f → i.opcode ∈ [0x09#6, 0x19#6, 0x1A#6, 0x1B#6, 0x1C#6, 0x1D#6, 0x1E#6]) ∧
    (t.status.c ≠ s.status.c → i.opcode ∈ [0x10#6, 0x11#6, 0x12#6, 0x13#6, 0x14#6]) ∧
    (¬DoutKept s t → i.opcode ∈ [0x05#6, 0x06#6, 0x07#6, 0x08#6]) ∧
    (∀ r, t.reg r ≠ s.reg r ∨ t.written r ≠ s.written r →
      (rdField (encode i) = r ∧
        i.opcode ∉ [0x05#6, 0x06#6, 0x07#6, 0x08#6, 0x09#6, 0x19#6, 0x1A#6, 0x1B#6, 0x1C#6, 0x1D#6, 0x1E#6]) ∨
      (reField (encode i) = r ∧ i.opcode = 0x26#6)) ∧
    t.status.busy = false ∧ t.inflight = none ∧ t.pins = s.pins ∧ t.script = s.script

/-- R24, R25, "No command reads it": the flags F and C steer nothing. With other flag values a command writes the same
registers, DOUT and faults, and each flag it writes is written the same. -/
def Obligations.NoCommandReadsTheFlags : Prop :=
  ∀ (i : Instr) (s t : State) (f c : Bool), exec i s = .next t →
    ∃ u, exec i { s with status := { s.status with f := f, c := c } } = .next u ∧
      u.regs = t.regs ∧ DoutKept t u ∧ u.status.fault = t.status.fault ∧ u.status.fcode = t.status.fcode ∧
      u.status.busy = t.status.busy ∧ u.inflight = t.inflight ∧ u.done = t.done ∧
      (u.status.f = t.status.f ∨ (u.status.f = f ∧ t.status.f = s.status.f)) ∧
      (u.status.c = t.status.c ∨ (u.status.c = c ∧ t.status.c = s.status.c))

/-! Conversion (40_conversion.md). -/

/-- R70: an unsigned native zero-extends: the low `w` bits of DIN_LO in `lo`, and `hi` 0. -/
def Obligations.UnsignedPromotionZeroExtends : Prop :=
  ∀ (w : NativeWidth) (v : Word), (promoteU w v).hi = 0 ∧ (promoteU w v).lo.toNat = v.toNat % 2 ^ w.bits ∧
    promote ⟨w, false⟩ v = promoteU w v

/-- R71: the two's-complement extension of the low `w` bits; a negative native gives `2^128 + v`. -/
def Obligations.SignedPromotionSignExtends : Prop :=
  ∀ (w : NativeWidth) (v : Word),
    (promoteS w v).lo = (v.setWidth w.bits).signExtend 64 ∧
    (promoteS w v).hi = (if (promoteS w v).lo.getLsbD 63 then 0xFFFFFFFFFFFFFFFF#64 else 0#64) ∧
    (promoteS w v).toBits = (v.setWidth w.bits).signExtend 128 ∧
    ((promoteS w v).toNat : Int) = (if v.getLsbD (w.bits - 1) then 2 ^ 128 else 0) + (v.setWidth w.bits).toInt ∧
    promote ⟨w, true⟩ v = promoteS w v

/-- R74, R75: MOV writes its operand's value to RD and PAIR writes the two DIN words; neither writes a flag. -/
def Obligations.MovAndPairLoadTheRegister : Prop :=
  (∀ (rd : Reg) (a : Operand) (s : State),
    opField (encode (.mov rd a)) = 0x01#6 ∧
    (strictExec (.mov rd a) s = .fault .unwritten ↔ a.unwritten s = true) ∧
    ∃ t, exec (.mov rd a) s = .next t ∧ WroteRegs s t [rd] ∧ t.status.c = s.status.c ∧ t.reg rd = a.value s) ∧
  ∀ (rd : Reg) (s : State),
    opField (encode (.pair rd)) = 0x02#6 ∧ strictExec (.pair rd) s = exec (.pair rd) s ∧
    ∃ t, exec (.pair rd) s = .next t ∧ WroteRegs s t [rd] ∧ t.status.c = s.status.c ∧
      (t.reg rd).hi = s.pins.dinHi ∧ (t.reg rd).lo = s.pins.dinLo

/-- R76 (R72 for binary32): DIN_LO[31:0] as a float, truncated toward zero and saturated; NaN and every negative give 0. -/
def Obligations.Cvtf32TruncatesAndSaturates : Prop :=
  ∀ (rd : Reg) (s : State),
    opField (encode (.cvtf32 rd)) = 0x03#6 ∧ strictExec (.cvtf32 rd) s = exec (.cvtf32 rd) s ∧
    ∃ t, exec (.cvtf32 rd) s = .next t ∧ WroteRegs s t [rd] ∧ t.status.c = s.status.c ∧
      (t.reg rd).toNat =
        let e := s.pins.dinLo.toNat / 2 ^ 23 % 2 ^ 8
        let m := s.pins.dinLo.toNat % 2 ^ 23
        if e = 255 ∧ m ≠ 0 then 0
        else if s.pins.dinLo.getLsbD 31 then 0
        else if e = 255 then 2 ^ 128 - 1
        else if e = 0 then 0
        else min (2 ^ 128 - 1) ((2 ^ 23 + m) * 2 ^ e / 2 ^ 150)

/-- R77 (R72 for binary64): DIN_LO as a float, truncated toward zero and saturated; NaN and every negative give 0. -/
def Obligations.Cvtf64TruncatesAndSaturates : Prop :=
  ∀ (rd : Reg) (s : State),
    opField (encode (.cvtf64 rd)) = 0x04#6 ∧ strictExec (.cvtf64 rd) s = exec (.cvtf64 rd) s ∧
    ∃ t, exec (.cvtf64 rd) s = .next t ∧ WroteRegs s t [rd] ∧ t.status.c = s.status.c ∧
      (t.reg rd).toNat =
        let e := s.pins.dinLo.toNat / 2 ^ 52 % 2 ^ 11
        let m := s.pins.dinLo.toNat % 2 ^ 52
        if e = 2047 ∧ m ≠ 0 then 0
        else if s.pins.dinLo.getLsbD 63 then 0
        else if e = 2047 then 2 ^ 128 - 1
        else if e = 0 then 0
        else min (2 ^ 128 - 1) ((2 ^ 52 + m) * 2 ^ e / 2 ^ 1075)

/-- R78: RDW writes the operand's words to DOUT_HI and DOUT_LO, and nothing else. -/
def Obligations.RdwReadsTheValueOut : Prop :=
  ∀ (a : Operand) (s : State),
    opField (encode (.rdw a)) = 0x05#6 ∧
    (strictExec (.rdw a) s = .fault .unwritten ↔ a.unwritten s = true) ∧
    ∃ t, exec (.rdw a) s = .next t ∧ WroteDout s t (a.value s).hi (a.value s).lo

/-- R79: the low `w` bits of `lo`, sign- or zero-extended to DOUT_LO; DOUT_HI is 0. -/
def Obligations.TruncNarrowsToTheType : Prop :=
  ∀ (w : NativeWidth) (signed : Bool) (a : Operand) (s : State),
    opField (encode (.trunc ⟨w, signed⟩ a)) = 0x06#6 ∧
    (strictExec (.trunc ⟨w, signed⟩ a) s = .fault .unwritten ↔ a.unwritten s = true) ∧
    ∃ t y, exec (.trunc ⟨w, signed⟩ a) s = .next t ∧ WroteDout s t 0 y ∧
      y.toNat =
        (if signed = true ∧ (a.value s).lo.getLsbD (w.bits - 1) = true then 2 ^ 64 - 2 ^ w.bits else 0)
          + (a.value s).lo.toNat % 2 ^ w.bits

/-- R80 (R73 for binary32): 0 gives +0.0; from `2^128 - 2^103` on, +Inf; else the nearest finite binary32, ties to the even
fraction, with sign 0. The upper half of DOUT_LO and DOUT_HI are 0. -/
def Obligations.Tof32RoundsToNearestEven : Prop :=
  ∀ (a : Operand) (s : State),
    opField (encode (.tof32 a)) = 0x07#6 ∧
    (strictExec (.tof32 a) s = .fault .unwritten ↔ a.unwritten s = true) ∧
    ∃ t y, exec (.tof32 a) s = .next t ∧ WroteDout s t 0 y ∧
      ((a.value s).toNat = 0 → y = 0) ∧
      (2 ^ 128 - 2 ^ 103 ≤ (a.value s).toNat → y = 0x7F800000#64) ∧
      (0 < (a.value s).toNat → (a.value s).toNat < 2 ^ 128 - 2 ^ 103 →
        y.toNat < 2 ^ 31 ∧ NearestEven 23 150 255 (a.value s).toNat (y.toNat / 2 ^ 23) (y.toNat % 2 ^ 23))

/-- R81 (R73 for binary64): 0 gives +0.0; every other value the nearest finite binary64, ties to the even fraction, with
sign 0. DOUT_HI is 0. -/
def Obligations.Tof64RoundsToNearestEven : Prop :=
  ∀ (a : Operand) (s : State),
    opField (encode (.tof64 a)) = 0x08#6 ∧
    (strictExec (.tof64 a) s = .fault .unwritten ↔ a.unwritten s = true) ∧
    ∃ t y, exec (.tof64 a) s = .next t ∧ WroteDout s t 0 y ∧
      ((a.value s).toNat = 0 → y = 0) ∧
      (0 < (a.value s).toNat →
        y.toNat < 2 ^ 63 ∧ NearestEven 52 1075 2047 (a.value s).toNat (y.toNat / 2 ^ 52) (y.toNat % 2 ^ 52))

/-- R82: TOBOOL writes F, which is 1 exactly when the operand is not 0, and nothing else. -/
def Obligations.ToboolTestsForNonzero : Prop :=
  ∀ (a : Operand) (s : State),
    opField (encode (.tobool a)) = 0x09#6 ∧
    (strictExec (.tobool a) s = .fault .unwritten ↔ a.unwritten s = true) ∧
    ∃ t, exec (.tobool a) s = .next t ∧ WroteF s t ∧ (t.status.f = true ↔ (a.value s).toNat ≠ 0)

/-- R83: widening a native and narrowing it back gives its bits, through a register and directly. -/
def Obligations.NarrowingUndoesPromotion : Prop :=
  ∀ (w : NativeWidth) (signed : Bool) (rd : Reg) (s t : State), exec (.mov rd (.din ⟨w, signed⟩)) s = .next t →
    (∃ u, exec (.trunc ⟨w, signed⟩ (.reg rd)) t = .next u ∧ u.doutLo.toNat % 2 ^ w.bits = s.pins.dinLo.toNat % 2 ^ w.bits) ∧
    ∃ u, exec (.trunc ⟨w, signed⟩ (.din ⟨w, signed⟩)) s = .next u ∧
      u.doutLo.toNat % 2 ^ w.bits = s.pins.dinLo.toNat % 2 ^ w.bits

/-! Additive, bitwise and comparison commands (41_additive_bitwise.md). -/

/-- R102 (R100): the sum wraps; C is the carry out of bit 127. -/
def Obligations.AddWrapsAndSetsCarry : Prop :=
  ∀ (rd : Reg) (a b : Operand) (s : State),
    opField (encode (.add rd a b)) = 0x10#6 ∧
    (strictExec (.add rd a b) s = .fault .unwritten ↔ a.unwritten s = true ∨ b.unwritten s = true) ∧
    ∃ t, exec (.add rd a b) s = .next t ∧ WroteRegs s t [rd] ∧
      (t.reg rd).toNat = ((a.value s).toNat + (b.value s).toNat) % 2 ^ 128 ∧
      (t.status.c = true ↔ 2 ^ 128 ≤ (a.value s).toNat + (b.value s).toNat)

/-- R103 (R101): the difference wraps; C is the borrow. -/
def Obligations.SubWrapsAndSetsBorrow : Prop :=
  ∀ (rd : Reg) (a b : Operand) (s : State),
    opField (encode (.sub rd a b)) = 0x11#6 ∧
    (strictExec (.sub rd a b) s = .fault .unwritten ↔ a.unwritten s = true ∨ b.unwritten s = true) ∧
    ∃ t, exec (.sub rd a b) s = .next t ∧ WroteRegs s t [rd] ∧
      ((t.reg rd).toNat : Int) = (((a.value s).toNat : Int) - ((b.value s).toNat : Int)) % 2 ^ 128 ∧
      (t.status.c = true ↔ (a.value s).toNat < (b.value s).toNat)

/-- R104: `0 - A`, which wraps; C = 1 iff A is not 0. -/
def Obligations.NegIsZeroMinus : Prop :=
  ∀ (rd : Reg) (a : Operand) (s : State),
    opField (encode (.neg rd a)) = 0x12#6 ∧
    (strictExec (.neg rd a) s = .fault .unwritten ↔ a.unwritten s = true) ∧
    ∃ t, exec (.neg rd a) s = .next t ∧ WroteRegs s t [rd] ∧
      ((t.reg rd).toNat : Int) = (-((a.value s).toNat : Int)) % 2 ^ 128 ∧
      (t.status.c = true ↔ (a.value s).toNat ≠ 0)

/-- R105, R106: one more and one less, which wrap; C = 1 iff A was all ones, or 0. -/
def Obligations.IncAndDecWrap : Prop :=
  ∀ (rd : Reg) (a : Operand) (s : State),
    (opField (encode (.inc rd a)) = 0x13#6 ∧
      (strictExec (.inc rd a) s = .fault .unwritten ↔ a.unwritten s = true) ∧
      ∃ t, exec (.inc rd a) s = .next t ∧ WroteRegs s t [rd] ∧
        (t.reg rd).toNat = ((a.value s).toNat + 1) % 2 ^ 128 ∧
        (t.status.c = true ↔ (a.value s).toNat = 2 ^ 128 - 1)) ∧
    opField (encode (.dec rd a)) = 0x14#6 ∧
    (strictExec (.dec rd a) s = .fault .unwritten ↔ a.unwritten s = true) ∧
    ∃ t, exec (.dec rd a) s = .next t ∧ WroteRegs s t [rd] ∧
      ((t.reg rd).toNat : Int) = (((a.value s).toNat : Int) - 1) % 2 ^ 128 ∧
      (t.status.c = true ↔ (a.value s).toNat = 0)

/-- R107 to R110: the bitwise commands on the 128 bits of their operands; no flag is written. -/
def Obligations.BitwiseCommandsActOnAllBits : Prop :=
  ∀ (rd : Reg) (a b : Operand) (s : State),
    (opField (encode (.not rd a)) = 0x15#6 ∧ opField (encode (.and rd a b)) = 0x16#6 ∧
      opField (encode (.or rd a b)) = 0x17#6 ∧ opField (encode (.xor rd a b)) = 0x18#6) ∧
    ((strictExec (.not rd a) s = .fault .unwritten ↔ a.unwritten s = true) ∧
      (strictExec (.and rd a b) s = .fault .unwritten ↔ a.unwritten s = true ∨ b.unwritten s = true) ∧
      (strictExec (.or rd a b) s = .fault .unwritten ↔ a.unwritten s = true ∨ b.unwritten s = true) ∧
      (strictExec (.xor rd a b) s = .fault .unwritten ↔ a.unwritten s = true ∨ b.unwritten s = true)) ∧
    (∃ t, exec (.not rd a) s = .next t ∧ WroteRegs s t [rd] ∧ t.status.c = s.status.c ∧
      (t.reg rd).toBits = ~~~(a.value s).toBits) ∧
    (∃ t, exec (.and rd a b) s = .next t ∧ WroteRegs s t [rd] ∧ t.status.c = s.status.c ∧
      (t.reg rd).toBits = (a.value s).toBits &&& (b.value s).toBits) ∧
    (∃ t, exec (.or rd a b) s = .next t ∧ WroteRegs s t [rd] ∧ t.status.c = s.status.c ∧
      (t.reg rd).toBits = (a.value s).toBits ||| (b.value s).toBits) ∧
    ∃ t, exec (.xor rd a b) s = .next t ∧ WroteRegs s t [rd] ∧ t.status.c = s.status.c ∧
      (t.reg rd).toBits = (a.value s).toBits ^^^ (b.value s).toBits

/-- R111 to R116: each comparison writes F, the comparison of the unsigned values, and nothing else. -/
def Obligations.ComparisonsSetFByUnsignedValue : Prop :=
  ∀ (a b : Operand) (s : State),
    (opField (encode (.eq a b)) = 0x19#6 ∧ opField (encode (.ne a b)) = 0x1A#6 ∧ opField (encode (.lt a b)) = 0x1B#6 ∧
      opField (encode (.le a b)) = 0x1C#6 ∧ opField (encode (.gt a b)) = 0x1D#6 ∧ opField (encode (.ge a b)) = 0x1E#6) ∧
    (∀ i ∈ [Instr.eq a b, .ne a b, .lt a b, .le a b, .gt a b, .ge a b],
      (strictExec i s = .fault .unwritten ↔ a.unwritten s = true ∨ b.unwritten s = true)) ∧
    (∃ t, exec (.eq a b) s = .next t ∧ WroteF s t ∧ (t.status.f = true ↔ (a.value s).toNat = (b.value s).toNat)) ∧
    (∃ t, exec (.ne a b) s = .next t ∧ WroteF s t ∧ (t.status.f = true ↔ (a.value s).toNat ≠ (b.value s).toNat)) ∧
    (∃ t, exec (.lt a b) s = .next t ∧ WroteF s t ∧ (t.status.f = true ↔ (a.value s).toNat < (b.value s).toNat)) ∧
    (∃ t, exec (.le a b) s = .next t ∧ WroteF s t ∧ (t.status.f = true ↔ (a.value s).toNat ≤ (b.value s).toNat)) ∧
    (∃ t, exec (.gt a b) s = .next t ∧ WroteF s t ∧ (t.status.f = true ↔ (b.value s).toNat < (a.value s).toNat)) ∧
    ∃ t, exec (.ge a b) s = .next t ∧ WroteF s t ∧ (t.status.f = true ↔ (b.value s).toNat ≤ (a.value s).toNat)

/-- R117: ADD then SUB of the same B restores A; NOT is its own inverse, `a & ~a` is 0 and `a | ~a` is all ones; exactly
one of LT, EQ and GT holds; LE, GE and NE follow from them. -/
def Obligations.AdditiveFamilyLaws : Prop :=
  (∀ (rd rq : Reg) (a b : Operand) (s t u : State), exec (.add rd a b) s = .next t →
    exec (.sub rq (.reg rd) b) t = .next u → b.value t = b.value s → u.reg rq = a.value s) ∧
  (∀ (rd rq : Reg) (a : Operand) (s t : State), exec (.not rd a) s = .next t → a.value t = a.value s →
    (∃ u, exec (.not rq (.reg rd)) t = .next u ∧ u.reg rq = a.value s) ∧
    (∃ u, exec (.and rq a (.reg rd)) t = .next u ∧ u.reg rq = .zero) ∧
    ∃ u, exec (.or rq a (.reg rd)) t = .next u ∧ u.reg rq = .ones) ∧
  ∀ (a b : Operand) (s e n l le g ge : State), exec (.eq a b) s = .next e → exec (.ne a b) s = .next n →
    exec (.lt a b) s = .next l → exec (.le a b) s = .next le → exec (.gt a b) s = .next g → exec (.ge a b) s = .next ge →
    (l.status.f.toNat + e.status.f.toNat + g.status.f.toNat = 1) ∧
    le.status.f = (l.status.f || e.status.f) ∧ ge.status.f = (g.status.f || e.status.f) ∧ n.status.f = !e.status.f

/-! Multiplication (42_multiply.md). -/

/-- R131: the product modulo `2^128`; no flag is written. -/
def Obligations.MulTruncatesTheProduct : Prop :=
  ∀ (rd : Reg) (a b : Operand) (s : State),
    opField (encode (.mul rd a b)) = 0x20#6 ∧
    (strictExec (.mul rd a b) s = .fault .unwritten ↔ a.unwritten s = true ∨ b.unwritten s = true) ∧
    ∃ t, exec (.mul rd a b) s = .next t ∧ WroteRegs s t [rd] ∧ t.status.c = s.status.c ∧
      (t.reg rd).toNat = (a.value s).toNat * (b.value s).toNat % 2 ^ 128

/-- R132: the multiplier is commutative and associative, distributes over the adder, has 1 and 0, and equals the product
modulo `2^128`. -/
def Obligations.MultiplierLaws : Prop :=
  ∀ a b c : Wide,
    mul128 a b = mul128 b a ∧ mul128 (mul128 a b) c = mul128 a (mul128 b c) ∧
    mul128 a (add128 b c false).1 = (add128 (mul128 a b) (mul128 a c) false).1 ∧
    mul128 a .one = a ∧ mul128 a .zero = .zero ∧ (mul128 a b).toNat = a.toNat * b.toNat % 2 ^ 128

/-! Division (43_divide.md). -/

/-- R140: the contract, and that it has one solution. -/
def Obligations.DivisionContractHasOneSolution : Prop :=
  ∀ n d : Wide, d.toNat ≠ 0 →
    n.toNat = (divmod128 n d).1.toNat * d.toNat + (divmod128 n d).2.toNat ∧ (divmod128 n d).2.toNat < d.toNat ∧
    ∀ q r : Wide, n.toNat = q.toNat * d.toNat + r.toNat → r.toNat < d.toNat → (q, r) = divmod128 n d

/-- R141: the reference algorithm computes the contract's pair in at most 128 iterations; the divisor is aligned with no bit
lost, and in no iteration does the partial remainder exceed the numerator or the partial quotient its bits. (The rule's remark
`dd ≤ n` is not stated: it does not hold for n = 8, d = 7.) -/
def Obligations.ReferenceDividerMeetsTheContract : Prop :=
  ∀ n d : Wide, d.toNat ≠ 0 →
    divmodRef n d = divmod128 n d ∧ (Divider.start n d).left ≤ 128 ∧
    (d.toNat ≤ n.toNat → (Divider.start n d).dd.toNat = d.toNat * 2 ^ ((Divider.start n d).left - 1)) ∧
    ∀ k, (Divider.run k (Divider.start n d)).r.toNat ≤ n.toNat ∧
      (Divider.run k (Divider.start n d)).q.toNat < 2 ^ (Divider.start n d).left

/-- R142: the 64-bit-divisor path computes the contract's pair. -/
def Obligations.WordDivisorPathMeetsTheContract : Prop :=
  ∀ n d : Wide, d.hi = 0 → d.lo ≠ 0 → divmodWord n d.lo = divmod128 n d

/-- R144, R145: quotient and remainder for a nonzero B; DIV_ZERO and nothing written for B = 0. -/
def Obligations.DivAndModMeetTheContract : Prop :=
  ∀ (rd : Reg) (a b : Operand) (s : State),
    (opField (encode (.div rd a b)) = 0x24#6 ∧ opField (encode (.mod rd a b)) = 0x25#6) ∧
    ((strictExec (.div rd a b) s = .fault .unwritten ↔ a.unwritten s = true ∨ b.unwritten s = true) ∧
      (strictExec (.mod rd a b) s = .fault .unwritten ↔ a.unwritten s = true ∨ b.unwritten s = true)) ∧
    ((b.value s).toNat ≠ 0 →
      (∃ t, exec (.div rd a b) s = .next t ∧ WroteRegs s t [rd] ∧ t.status.c = s.status.c ∧
        (t.reg rd).toNat = (a.value s).toNat / (b.value s).toNat) ∧
      ∃ t, exec (.mod rd a b) s = .next t ∧ WroteRegs s t [rd] ∧ t.status.c = s.status.c ∧
        (t.reg rd).toNat = (a.value s).toNat % (b.value s).toNat) ∧
    ((b.value s).toNat = 0 →
      (∃ t, exec (.div rd a b) s = .next t ∧ Faulted s t .divZero) ∧
      ∃ t, exec (.mod rd a b) s = .next t ∧ Faulted s t .divZero)

/-- R146: both results in one commit; DIV_ZERO for B = 0; no word decodes to the term with RD = RE (R57), and that such a term
raises ILLEGAL is the model's choice (log 14). -/
def Obligations.DivmodWritesBothResults : Prop :=
  ∀ (rd re : Reg) (a b : Operand) (s : State),
    opField (encode (.divmod rd re a b)) = 0x26#6 ∧
    (rd ≠ re → (strictExec (.divmod rd re a b) s = .fault .unwritten ↔ a.unwritten s = true ∨ b.unwritten s = true)) ∧
    (rd ≠ re → (b.value s).toNat ≠ 0 →
      ∃ t, exec (.divmod rd re a b) s = .next t ∧ WroteRegs s t [rd, re] ∧ t.status.c = s.status.c ∧
        (t.reg rd).toNat = (a.value s).toNat / (b.value s).toNat ∧
        (t.reg re).toNat = (a.value s).toNat % (b.value s).toNat) ∧
    (rd ≠ re → (b.value s).toNat = 0 → ∃ t, exec (.divmod rd re a b) s = .next t ∧ Faulted s t .divZero) ∧
    (rd = re → (∃ t, exec (.divmod rd re a b) s = .next t ∧ Faulted s t .illegal) ∧
      ∀ w, decode w ≠ .command (.divmod rd re a b))

/-- R147: DIV's and MOD's results on the same operands satisfy `q·b + r = a` with no wrap and `r < b`, and DIVMOD writes
the same two values. -/
def Obligations.DivisionIdentity : Prop :=
  ∀ (rd re : Reg) (a b : Operand) (s tq tr td : State), (b.value s).toNat ≠ 0 → rd ≠ re →
    exec (.div rd a b) s = .next tq → exec (.mod rd a b) s = .next tr → exec (.divmod rd re a b) s = .next td →
    (tq.reg rd).toNat * (b.value s).toNat + (tr.reg rd).toNat = (a.value s).toNat ∧
    (tr.reg rd).toNat < (b.value s).toNat ∧ td.reg rd = tq.reg rd ∧ td.reg re = tr.reg rd

/-! Shifts (44_shift.md). -/

/-- R152 (R150): `V(A)·2^n` modulo `2^128` for a count below 128; else SHIFT_RANGE and nothing written. -/
def Obligations.ShlMultipliesByPowerOfTwo : Prop :=
  ∀ (rd : Reg) (a b : Operand) (s : State),
    opField (encode (.shl rd a b)) = 0x28#6 ∧
    (strictExec (.shl rd a b) s = .fault .unwritten ↔ a.unwritten s = true ∨ b.unwritten s = true) ∧
    ((b.value s).toNat < 128 →
      ∃ t, exec (.shl rd a b) s = .next t ∧ WroteRegs s t [rd] ∧ t.status.c = s.status.c ∧
        (t.reg rd).toNat = (a.value s).toNat * 2 ^ (b.value s).toNat % 2 ^ 128) ∧
    (128 ≤ (b.value s).toNat → ∃ t, exec (.shl rd a b) s = .next t ∧ Faulted s t .shiftRange)

/-- R153 (R150): `floor(V(A)/2^n)` for a count below 128; else SHIFT_RANGE and nothing written. -/
def Obligations.ShrDividesByPowerOfTwo : Prop :=
  ∀ (rd : Reg) (a b : Operand) (s : State),
    opField (encode (.shr rd a b)) = 0x29#6 ∧
    (strictExec (.shr rd a b) s = .fault .unwritten ↔ a.unwritten s = true ∨ b.unwritten s = true) ∧
    ((b.value s).toNat < 128 →
      ∃ t, exec (.shr rd a b) s = .next t ∧ WroteRegs s t [rd] ∧ t.status.c = s.status.c ∧
        (t.reg rd).toNat = (a.value s).toNat / 2 ^ (b.value s).toNat) ∧
    (128 ≤ (b.value s).toNat → ∃ t, exec (.shr rd a b) s = .next t ∧ Faulted s t .shiftRange)

/-- R154: shift by 0 and by 64, right after left, and left as a product. -/
def Obligations.ShifterLaws : Prop :=
  ∀ (a : Wide) (n : Nat), n < 128 →
    shl128 a 0 = a ∧ shr128 a 0 = a ∧ shl128 a 64 = ⟨a.lo, 0⟩ ∧ shr128 a 64 = ⟨0, a.hi⟩ ∧
    (shr128 (shl128 a n) n).toBits = a.toBits &&& (shr128 .ones n).toBits ∧
    shl128 a n = mul128 a (.ofNat (2 ^ n))

/-! The clock view (70_reset_and_hazards.md, 10_state.md R29, R30). -/

/-- R181: at an edge with a command offered and `cmd_ready` high the unit latches the word and DIN, reads the operands the
command has, and sets BUSY; nothing else changes. While BUSY, `cmd_ready` is 0 and no other command is accepted. -/
def Obligations.AcceptanceLatchesTheCommand : Prop :=
  (∀ (s : State) (p : Pins), (s.drive p).cmdReady = true → p.cmdValid = true →
    SameResults s (clockEdge p s) ∧ (clockEdge p s).status.busy = true ∧
    ∃ f, (clockEdge p s).inflight = some f ∧ f.cmd = p.cmd ∧ f.dinHi = p.dinHi ∧ f.dinLo = p.dinLo ∧
      ((∃ why, decode p.cmd = .illegal why) → f.a = none ∧ f.b = none) ∧
      ∀ i, decode p.cmd = .command i →
        f.a = i.operandA.map (·.value (s.drive p)) ∧ f.b = i.operandB.map (·.value (s.drive p))) ∧
  ∀ (s : State) (p : Pins) (f : InFlight), p.rst = false → s.status.busy = true → s.inflight = some f →
    (s.drive p).cmdReady = false ∧
    ∀ g, (clockEdge p s).inflight = some g → g.cmd = f.cmd ∧ g.dinHi = f.dinHi ∧ g.dinLo = f.dinLo ∧ g.a = f.a ∧ g.b = f.b

/-- R183: `LAT` is at least 1 and at most the bound of R7 for its command. -/
def Obligations.LatencyIsPositiveAndBounded : Prop :=
  ∀ (cmd : BitVec 32) (dinHi dinLo : Word) (a b : Option Wide),
    1 ≤ latency cmd dinHi dinLo a b ∧
    (opField cmd = 0x24#6 ∨ opField cmd = 0x25#6 ∨ opField cmd = 0x26#6 → latency cmd dinHi dinLo a b ≤ Config.latDivMax) ∧
    (¬(opField cmd = 0x24#6 ∨ opField cmd = 0x25#6 ∨ opField cmd = 0x26#6) → latency cmd dinHi dinLo a b ≤ Config.latMax)

/-- R189 (R182, R183, R184): from a ready state, an acceptance edge and `LAT` more edges without reset leave the block as the
one atomic step does, whatever else the host drives meanwhile and whatever `LAT` is; and at every edge before the last the
block is BUSY and its registers, F, C, FAULT, FCODE and DOUT show the values of before. A step from a BUSY state leaves what the
host offers waiting (R189), and ends with BUSY 0 (the model's deduction, log 7). -/
def Obligations.ClockRunEqualsTheAtomicStep : Prop :=
  (∀ (s : State) (p : Pins) (ps : List Pins), (s.drive p).cmdReady = true → p.cmdValid = true →
    ps.length = (s.drive p).latch.left → (∀ q ∈ ps, q.rst = false) →
    (∃ t, step (s.drive p) = .next t ∧ SameUnit t (clockEdges (p :: ps) s)) ∧
    ∀ j, j < ps.length →
      (clockEdges (p :: ps.take j) s).status.busy = true ∧ SameResults s (clockEdges (p :: ps.take j) s)) ∧
  ∀ s t : State, s.pins.rst = false → s.status.busy = true → step s = .next t →
    t.status.busy = false ∧ t.pins = s.pins ∧ t.script = s.script

/-- R182, 10_state.md R29: `done` is high after an edge exactly when that edge committed a command without a fault; so it
is high for one cycle. -/
def Obligations.DoneMarksACommitWithoutFault : Prop :=
  ∀ (s : State) (p : Pins), Inv s →
    ((clockEdge p s).done = true ↔
      p.rst = false ∧ s.status.busy = true ∧ (clockEdge p s).status.busy = false ∧ (clockEdge p s).status.fault = false) ∧
    ((clockEdge p s).done = true → ∀ q, (clockEdge q (clockEdge p s)).done = false)

/-! Notation and the platform. -/

/-- What each pseudo-instruction does, run as the command it expands to with the DIN words it names: what follows from R62's
expansions and the rules of the commands. -/
def Obligations.PseudoInstructionsDoAsNamed : Prop :=
  (∀ (rd : Reg) (imm : Nat) (s : State), imm < 2 ^ 64 →
    ∃ t, exec (Pseudo.ldu rd imm).expand.command ((Pseudo.ldu rd imm).expand.drive s) = .next t ∧ (t.reg rd).toNat = imm) ∧
  (∀ (rd : Reg) (imm : Int) (s : State), -2 ^ 63 ≤ imm → imm < 2 ^ 63 →
    ∃ t, exec (Pseudo.lds rd imm).expand.command ((Pseudo.lds rd imm).expand.drive s) = .next t ∧
      ((t.reg rd).toNat : Int) = imm % 2 ^ 128) ∧
  (∀ (rd : Reg) (hi lo : Word) (s : State),
    ∃ t, exec (Pseudo.ldw rd hi lo).expand.command ((Pseudo.ldw rd hi lo).expand.drive s) = .next t ∧ t.reg rd = ⟨hi, lo⟩) ∧
  (∀ (rd : Reg) (s : State),
    ∃ t, exec (Pseudo.clr rd).expand.command ((Pseudo.clr rd).expand.drive s) = .next t ∧ t.reg rd = .zero) ∧
  (∀ (rd ra : Reg) (s : State),
    ∃ t, exec (Pseudo.cpy rd ra).expand.command ((Pseudo.cpy rd ra).expand.drive s) = .next t ∧ t.reg rd = s.reg ra) ∧
  (∀ (a : Operand) (s : State),
    ∃ t, exec (Pseudo.tst a).expand.command ((Pseudo.tst a).expand.drive s) = .next t ∧
      (t.status.f = true ↔ (a.value s).toNat ≠ 0)) ∧
  ∀ (a b : Operand) (s : State),
    exec (Pseudo.cmp .eq a b).expand.command ((Pseudo.cmp .eq a b).expand.drive s) = exec (.eq a b) s ∧
    exec (Pseudo.cmp .ne a b).expand.command ((Pseudo.cmp .ne a b).expand.drive s) = exec (.ne a b) s ∧
    exec (Pseudo.cmp .lt a b).expand.command ((Pseudo.cmp .lt a b).expand.drive s) = exec (.lt a b) s ∧
    exec (Pseudo.cmp .le a b).expand.command ((Pseudo.cmp .le a b).expand.drive s) = exec (.le a b) s ∧
    exec (Pseudo.cmp .gt a b).expand.command ((Pseudo.cmp .gt a b).expand.drive s) = exec (.gt a b) s ∧
    exec (Pseudo.cmp .ge a b).expand.command ((Pseudo.cmp .ge a b).expand.drive s) = exec (.ge a b) s

/-- R47: whatever the arbiter grants, the port sees an interleaving of the hosts' sequences: each command in it is one
host's, and each host's own commands are the first of its sequence, in order. -/
def Obligations.ArbitrationInterleavesTheHosts : Prop :=
  ∀ (grant : Nat → Nat) (fuel n : Nat) (qs : List (List Pins)),
    ∃ tagged : List (Nat × Pins), tagged.map Prod.snd = arbitrate grant fuel n qs ∧
      (∀ x ∈ tagged, x.1 < qs.length) ∧
      ∀ (k : Nat) (q : List Pins), qs[k]? = some q → (tagged.filter (·.1 = k)).map Prod.snd <+: q

/-! The end of a run (70_reset_and_hazards.md R190). -/

/-- R190: once a run has ended, what a host can read and the registers stay as they are at every further step without reset,
and the run stays ended: the end state is one state. -/
def Obligations.EndOfRunIsStable : Prop :=
  ∀ s t : State, s.runEnded = true → s.pins.rst = false → (∀ p ∈ s.script, p.rst = false) → step s = .next t →
    SameResults s t ∧ t.status.busy = false ∧ t.inflight = s.inflight ∧ t.runEnded = true ∧ t.pins.rst = false ∧
    ∀ p ∈ t.script, p.rst = false

/-! The step's parameters (10_state.md R33). -/

/-- R33: the input ports and the command sequence are parameters of the step, not state of the block. What a step, or a clock
edge, does to the block depends on the block and on what is on the ports at it, and on nothing the host drives later. -/
def Obligations.InputsAreParametersOfTheStep : Prop :=
  (∀ s t : State, step s = .next t → unitStep s.pins s.toBlock = .next t.toBlock) ∧
  (∀ s t : State, strictStep s = .next t → blockStep strictExec s.pins s.toBlock = .next t.toBlock) ∧
  ∀ (s : State) (p : Pins), (clockEdge p s).toBlock = unitEdge p s.toBlock
end

