-- ==== Sys2Proof/Laws/Wide.lean ====
section
/-! SUPPORT. The value of a wide value: its bound, that it determines the value, and how it is read back. -/

namespace Sys2Proof.Wide

theorem toNat_lt (x : Wide) : x.toNat < 2 ^ 128 := by
  have h := x.hi.isLt
  have l := x.lo.isLt
  unfold toNat
  omega

theorem toNat_inj {x y : Wide} (h : x.toNat = y.toNat) : x = y := by
  have xl := x.lo.isLt
  have yl := y.lo.isLt
  obtain ⟨xh, xl'⟩ := x
  obtain ⟨yh, yl'⟩ := y
  simp only [toNat] at h xl yl
  rw [mk.injEq, ← BitVec.toNat_inj, ← BitVec.toNat_inj]
  omega

theorem toNat_eq_iff {x y : Wide} : x.toNat = y.toNat ↔ x = y := ⟨toNat_inj, fun h => h ▸ rfl⟩

theorem toNat_ofNat (n : Nat) : (ofNat n).toNat = n % 2 ^ 128 := by
  simp only [ofNat, toNat, BitVec.toNat_ofNat]
  omega

theorem toNat_ofNat_of_lt {n : Nat} (h : n < 2 ^ 128) : (ofNat n).toNat = n := by
  rw [toNat_ofNat, Nat.mod_eq_of_lt h]

theorem ofNat_toNat (x : Wide) : ofNat x.toNat = x :=
  toNat_inj (toNat_ofNat_of_lt x.toNat_lt)

theorem toNat_toBits (x : Wide) : x.toBits.toNat = x.toNat := by
  have l := x.lo.isLt
  rw [toBits, BitVec.toNat_append, toNat, Nat.shiftLeft_eq, Nat.mul_comm, Nat.two_pow_add_eq_or_of_lt l]

theorem getLsbD_toBits (x : Wide) (i : Nat) :
    x.toBits.getLsbD i = if i < 64 then x.lo.getLsbD i else x.hi.getLsbD (i - 64) := BitVec.getLsbD_append

@[simp] theorem toNat_zero : zero.toNat = 0 := rfl

@[simp] theorem toNat_one : one.toNat = 1 := rfl

@[simp] theorem toNat_ones : ones.toNat = 2 ^ 128 - 1 := rfl

theorem toNat_eq_zero_iff (x : Wide) : x.toNat = 0 ↔ x = zero := by
  rw [← toNat_zero, toNat_eq_iff]

end Sys2Proof.Wide
end

