-- ==== Sys2Proof/Laws/Arithmetic.lean ====
section
/-! SUPPORT. What each datapath primitive computes, in terms of the value V of 00_scope.md R9: one lemma a primitive, to be cited instead of unfolding it. -/

namespace Sys2Proof.Machine

/-! Adder and subtractor (41_additive_bitwise.md R100, R101). -/

theorem add64_sum (x y : Word) (cin : Bool) :
    (add64 x y cin).1.toNat = (x.toNat + y.toNat + cin.toNat) % 2 ^ 64 := by
  have hx := x.isLt
  have hy := y.isLt
  have hc := Bool.toNat_lt cin
  simp only [add64, BitVec.toNat_setWidth, BitVec.toNat_add, BitVec.toNat_ofBool]
  omega

theorem add64_carry (x y : Word) (cin : Bool) :
    (add64 x y cin).2 = decide (2 ^ 64 ≤ x.toNat + y.toNat + cin.toNat) := by
  have hx := x.isLt
  have hy := y.isLt
  have hc := Bool.toNat_lt cin
  simp only [add64, BitVec.getLsbD, Nat.testBit_eq_decide_div_mod_eq, BitVec.toNat_setWidth, BitVec.toNat_add,
    BitVec.toNat_ofBool, decide_eq_decide]
  omega

theorem add128_sum (x y : Wide) (cin : Bool) :
    (add128 x y cin).1.toNat = (x.toNat + y.toNat + cin.toNat) % 2 ^ 128 := by
  have hl := x.lo.isLt
  have hl' := y.lo.isLt
  have hc := Bool.toNat_lt cin
  simp only [add128, Wide.toNat, add64_sum, add64_carry]
  by_cases h : 2 ^ 64 ≤ x.lo.toNat + y.lo.toNat + cin.toNat
  · rw [decide_eq_true h, Bool.toNat_true]
    omega
  · rw [decide_eq_false h, Bool.toNat_false]
    omega

theorem add128_carry (x y : Wide) (cin : Bool) :
    (add128 x y cin).2 = true ↔ 2 ^ 128 ≤ x.toNat + y.toNat + cin.toNat := by
  have hl := x.lo.isLt
  have hl' := y.lo.isLt
  have hc := Bool.toNat_lt cin
  simp only [add128, add64_carry]
  rw [decide_eq_true_eq, Wide.toNat, Wide.toNat]
  by_cases h : 2 ^ 64 ≤ x.lo.toNat + y.lo.toNat + cin.toNat
  · rw [decide_eq_true h, Bool.toNat_true]
    omega
  · rw [decide_eq_false h, Bool.toNat_false]
    omega

theorem sub128_borrow (x y : Wide) : (sub128 x y).2 = true ↔ x.toNat < y.toNat := by
  have hl := x.lo.isLt
  have hl' := y.lo.isLt
  simp only [sub128]
  simp only [Bool.or_eq_true, decide_eq_true_eq, Bool.and_eq_true, beq_iff_eq, ← BitVec.toNat_inj, BitVec.lt_def]
  rw [Wide.toNat, Wide.toNat]
  omega

theorem sub128_diff (x y : Wide) :
    (sub128 x y).1.toNat = (2 ^ 128 - y.toNat + x.toNat) % 2 ^ 128 := by
  have hl := x.lo.isLt
  have hl' := y.lo.isLt
  have hh := x.hi.isLt
  have hh' := y.hi.isLt
  simp only [sub128, Wide.toNat, BitVec.lt_def, BitVec.toNat_sub, BitVec.toNat_setWidth, BitVec.toNat_ofBool]
  by_cases h : x.lo.toNat < y.lo.toNat
  · rw [decide_eq_true h, Bool.toNat_true]
    omega
  · rw [decide_eq_false h, Bool.toNat_false]
    omega

/-- The subtractor over the integers. -/
theorem sub128_int (x y : Wide) : ((sub128 x y).1.toNat : Int) = ((x.toNat : Int) - (y.toNat : Int)) % 2 ^ 128 := by
  have hx := x.toNat_lt
  have hy := y.toNat_lt
  rw [sub128_diff]
  omega

/-! Shifter (44_shift.md R151 to R153): the word-boundary datapath is the shift of the 128 bits. -/

theorem shl128_toBits (a : Wide) (n : Nat) : (shl128 a n).toBits = a.toBits <<< n := by
  apply BitVec.eq_of_getLsbD_eq
  intro i hi
  by_cases hn : 64 ≤ n
  · rw [shl128, if_pos hn, BitVec.getLsbD_shiftLeft, Wide.getLsbD_toBits, Wide.getLsbD_toBits]
    by_cases h : i < 64
    · have : i < n := by omega
      simp [h, this]
    · by_cases h2 : i < n
      · have : i - 64 < n - 64 := by omega
        simp [h, h2, this]
      · simp only [h, if_false, BitVec.getLsbD_shiftLeft, show ¬ (i - 64 < n - 64) by omega, h2,
          show i - n < 64 by omega, if_true, show i - 64 - (n - 64) = i - n by omega, show i - 64 < 64 by omega, hi]

  · rw [shl128, if_neg hn, BitVec.getLsbD_shiftLeft, Wide.getLsbD_toBits, Wide.getLsbD_toBits]
    by_cases h0 : n = 0
    · subst h0; simp [xhi]; simp [hi]
    simp only [xhi, h0, if_false]
    by_cases h : i < 64
    · by_cases h2 : i < n
      · simp [h, h2]
      · simp [h, h2, hi, show i - n < 64 by omega]
    · have h2 : ¬ i < n := by omega
      simp only [h, if_false, h2, hi, BitVec.getLsbD_or, BitVec.getLsbD_shiftLeft, BitVec.getLsbD_ushiftRight,
        show i - 64 < 64 by omega]
      by_cases h3 : i - n < 64
      · simp [h3, show i - 64 < n by omega, show 64 - n + (i - 64) = i - n by omega]
      · simp [h3, show ¬ i - 64 < n by omega, show i - 64 - n = i - n - 64 by omega]
        intro hc; rw [BitVec.getLsbD_of_ge _ _ (by omega)] at hc; cases hc

theorem shr128_toBits (a : Wide) (n : Nat) : (shr128 a n).toBits = a.toBits >>> n := by
  apply BitVec.eq_of_getLsbD_eq
  intro i hi
  by_cases hn : 64 ≤ n
  · rw [shr128, if_pos hn, BitVec.getLsbD_ushiftRight, Wide.getLsbD_toBits, Wide.getLsbD_toBits]
    have h2 : ¬ n + i < 64 := by omega
    by_cases h : i < 64
    · simp [h, h2, show n - 64 + i = n + i - 64 by omega]
    · simp only [h, h2, if_false]
      rw [BitVec.getLsbD_of_ge _ (n + i - 64) (by omega)]; simp
  · rw [shr128, if_neg hn, BitVec.getLsbD_ushiftRight, Wide.getLsbD_toBits, Wide.getLsbD_toBits]
    by_cases h0 : n = 0
    · subst h0; simp [xlo]
    simp only [xlo, h0, if_false]
    by_cases h : i < 64
    · by_cases h2 : n + i < 64
      · simp [h, h2, show i < 64 - n by omega]
      · simp [h, h2, show ¬ i < 64 - n by omega, show i - (64 - n) = n + i - 64 by omega]
        rw [BitVec.getLsbD_of_ge a.lo (n + i) (by omega), Bool.false_or, BitVec.getLsbD_eq_getElem]
    · simp [h, show ¬ n + i < 64 by omega, show n + (i - 64) = n + i - 64 by omega]

/-! Multiplier (42_multiply.md R130, R131). -/

theorem mul64x128_exact (x y : Word) : (mul64x128 x y).toNat = x.toNat * y.toNat :=
  Wide.toNat_ofNat_of_lt (by
    have := Nat.mul_lt_mul'' x.isLt y.isLt
    calc x.toNat * y.toNat < 2 ^ 64 * 2 ^ 64 := this
      _ = 2 ^ 128 := by norm_num)

/-! Division (43_divide.md R140). -/

theorem divmod128_quotient (n d : Wide) : (divmod128 n d).1.toNat = n.toNat / d.toNat :=
  Wide.toNat_ofNat_of_lt (Nat.lt_of_le_of_lt (Nat.div_le_self _ _) n.toNat_lt)

theorem divmod128_remainder (n d : Wide) : (divmod128 n d).2.toNat = n.toNat % d.toNat :=
  Wide.toNat_ofNat_of_lt (Nat.lt_of_le_of_lt (Nat.mod_le _ _) n.toNat_lt)

/-! Leading zeros (00_scope.md R10). -/

theorem clz128_le (x : Wide) : clz128 x ≤ 128 := by
  unfold clz128
  split <;> omega

theorem log2_le_127 (x : Wide) : Nat.log2 x.toNat ≤ 127 := by
  by_cases h : x.toNat = 0
  · rw [h]; decide
  · exact Nat.lt_succ_iff.mp ((Nat.log2_lt h).mpr x.toNat_lt)

/-! Promotion (40_conversion.md R70). -/

theorem toNat_zext64 (n : Nat) (hn : n ≤ 64) (v : Word) : (zext64 n v).toNat = v.toNat % 2 ^ n := by
  have h : v.toNat % 2 ^ n < 2 ^ 64 :=
    Nat.lt_of_lt_of_le (Nat.mod_lt _ (Nat.two_pow_pos n)) (Nat.pow_le_pow_right (by decide) hn)
  simp only [zext64, BitVec.toNat_setWidth]
  exact Nat.mod_eq_of_lt h

theorem NativeWidth.bits_le (w : NativeWidth) : w.bits ≤ 64 := by cases w <;> decide

end Sys2Proof.Machine
end

