-- ==== Sys2Proof/Laws/State.lean ====
section
/-! SUPPORT. The small lemmas of the state's updates: one per field per update, so that no later proof unfolds one. -/

namespace Sys2Proof.Machine

/-! `setReg`. -/

@[simp] theorem State.setReg_status (s : State) (r : Reg) (v : Wide) : (s.setReg r v).status = s.status := rfl
@[simp] theorem State.setReg_doutHi (s : State) (r : Reg) (v : Wide) : (s.setReg r v).doutHi = s.doutHi := rfl
@[simp] theorem State.setReg_doutLo (s : State) (r : Reg) (v : Wide) : (s.setReg r v).doutLo = s.doutLo := rfl
@[simp] theorem State.setReg_inflight (s : State) (r : Reg) (v : Wide) : (s.setReg r v).inflight = s.inflight := rfl
@[simp] theorem State.setReg_done (s : State) (r : Reg) (v : Wide) : (s.setReg r v).done = s.done := rfl
@[simp] theorem State.setReg_pins (s : State) (r : Reg) (v : Wide) : (s.setReg r v).pins = s.pins := rfl
@[simp] theorem State.setReg_script (s : State) (r : Reg) (v : Wide) : (s.setReg r v).script = s.script := rfl

theorem State.get_set_reg (s : State) (r q : Reg) (v : Wide) :
    (s.setReg r v).regs.get q = if q = r then ⟨v, true⟩ else s.regs.get q := by
  simp only [State.setReg, Vector.get_eq_getElem, Vector.getElem_set, Fin.ext_iff, eq_comm]

@[simp] theorem State.setReg_reg (s : State) (r q : Reg) (v : Wide) :
    (s.setReg r v).reg q = if q = r then v else s.reg q := by
  simp only [State.reg, State.get_set_reg]
  split <;> rfl

@[simp] theorem State.setReg_written (s : State) (r q : Reg) (v : Wide) :
    (s.setReg r v).written q = if q = r then true else s.written q := by
  simp only [State.written, State.get_set_reg]
  split <;> rfl

/-! A state with a field replaced: the registers are read from `regs` alone. -/

theorem State.reg_congr (s t : State) (h : t.regs = s.regs) (r : Reg) : t.reg r = s.reg r := by
  simp only [State.reg, h]

theorem State.written_congr (s t : State) (h : t.regs = s.regs) (r : Reg) : t.written r = s.written r := by
  simp only [State.written, h]

/-! `raise` (60_exceptions.md R161). -/

@[simp] theorem State.raise_regs (s : State) (code : FCode) : (s.raise code).regs = s.regs := rfl
@[simp] theorem State.raise_doutHi (s : State) (code : FCode) : (s.raise code).doutHi = s.doutHi := rfl
@[simp] theorem State.raise_doutLo (s : State) (code : FCode) : (s.raise code).doutLo = s.doutLo := rfl
@[simp] theorem State.raise_pins (s : State) (code : FCode) : (s.raise code).pins = s.pins := rfl
@[simp] theorem State.raise_script (s : State) (code : FCode) : (s.raise code).script = s.script := rfl
@[simp] theorem State.raise_reg (s : State) (code : FCode) (q : Reg) : (s.raise code).reg q = s.reg q := rfl
@[simp] theorem State.raise_written (s : State) (code : FCode) (q : Reg) : (s.raise code).written q = s.written q := rfl
@[simp] theorem State.raise_status (s : State) (code : FCode) : (s.raise code).status = ⟨false, true, code, s.status.f, s.status.c⟩ := rfl
@[simp] theorem State.raise_inflight (s : State) (code : FCode) : (s.raise code).inflight = none := rfl
@[simp] theorem State.raise_done (s : State) (code : FCode) : (s.raise code).done = false := rfl

/-! A mapped write (20_memory.md R44) drives the ports and nothing else. -/

@[simp] theorem State.drive_toBlock (s : State) (p : Pins) : (s.drive p).toBlock = s.toBlock := rfl
@[simp] theorem State.writeMapped_toBlock (s : State) (addr : Nat) (v : Word) : (s.writeMapped addr v).toBlock = s.toBlock := rfl
@[simp] theorem State.writeMapped_script (s : State) (addr : Nat) (v : Word) : (s.writeMapped addr v).script = s.script := rfl

/-! The host's own moves leave the block as it is (10_state.md R33). -/

@[simp] theorem State.hostNext_toBlock (s : State) : s.hostNext.toBlock = s.toBlock := by
  unfold State.hostNext
  split <;> rfl

/-! `endCommand`. -/

@[simp] theorem State.endCommand_regs (s : State) (b : Bool) : (s.endCommand b).regs = s.regs := rfl
@[simp] theorem State.endCommand_doutHi (s : State) (b : Bool) : (s.endCommand b).doutHi = s.doutHi := rfl
@[simp] theorem State.endCommand_doutLo (s : State) (b : Bool) : (s.endCommand b).doutLo = s.doutLo := rfl
@[simp] theorem State.endCommand_pins (s : State) (b : Bool) : (s.endCommand b).pins = s.pins := rfl
@[simp] theorem State.endCommand_script (s : State) (b : Bool) : (s.endCommand b).script = s.script := rfl
@[simp] theorem State.endCommand_reg (s : State) (b : Bool) (q : Reg) : (s.endCommand b).reg q = s.reg q := rfl
@[simp] theorem State.endCommand_written (s : State) (b : Bool) (q : Reg) : (s.endCommand b).written q = s.written q := rfl
@[simp] theorem State.endCommand_status (s : State) (b : Bool) : (s.endCommand b).status = { s.status with busy := false } := rfl
@[simp] theorem State.endCommand_inflight (s : State) (b : Bool) : (s.endCommand b).inflight = none := rfl
@[simp] theorem State.endCommand_done (s : State) (b : Bool) : (s.endCommand b).done = b := rfl

/-! `hold`. -/

@[simp] theorem State.hold_regs (s : State) : (s.hold).regs = s.regs := rfl
@[simp] theorem State.hold_status (s : State) : (s.hold).status = s.status := rfl
@[simp] theorem State.hold_doutHi (s : State) : (s.hold).doutHi = s.doutHi := rfl
@[simp] theorem State.hold_doutLo (s : State) : (s.hold).doutLo = s.doutLo := rfl
@[simp] theorem State.hold_inflight (s : State) : (s.hold).inflight = s.inflight := rfl
@[simp] theorem State.hold_pins (s : State) : (s.hold).pins = s.pins := rfl
@[simp] theorem State.hold_script (s : State) : (s.hold).script = s.script := rfl
@[simp] theorem State.hold_reg (s : State) (q : Reg) : (s.hold).reg q = s.reg q := rfl
@[simp] theorem State.hold_written (s : State) (q : Reg) : (s.hold).written q = s.written q := rfl
@[simp] theorem State.hold_done (s : State) : (s.hold).done = false := rfl

/-! `hostNext`: only what the host drives changes. -/

@[simp] theorem State.hostNext_regs (s : State) : s.hostNext.regs = s.regs := by
  unfold State.hostNext; split <;> rfl
@[simp] theorem State.hostNext_status (s : State) : s.hostNext.status = s.status := by
  unfold State.hostNext; split <;> rfl
@[simp] theorem State.hostNext_doutHi (s : State) : s.hostNext.doutHi = s.doutHi := by
  unfold State.hostNext; split <;> rfl
@[simp] theorem State.hostNext_doutLo (s : State) : s.hostNext.doutLo = s.doutLo := by
  unfold State.hostNext; split <;> rfl
@[simp] theorem State.hostNext_inflight (s : State) : s.hostNext.inflight = s.inflight := by
  unfold State.hostNext; split <;> rfl
@[simp] theorem State.hostNext_done (s : State) : s.hostNext.done = s.done := by
  unfold State.hostNext; split <;> rfl
@[simp] theorem State.hostNext_reg (s : State) (q : Reg) : s.hostNext.reg q = s.reg q :=
  State.reg_congr _ _ (State.hostNext_regs s) q
@[simp] theorem State.hostNext_written (s : State) (q : Reg) : s.hostNext.written q = s.written q :=
  State.written_congr _ _ (State.hostNext_regs s) q

theorem State.hostNext_nil (s : State) (h : s.script = []) : s.hostNext = { s with pins := .idle } := by
  unfold State.hostNext; rw [h]

theorem State.hostNext_cons (s : State) (p : Pins) (ps : List Pins) (h : s.script = p :: ps) :
    s.hostNext = { s with pins := p, script := ps } := by
  unfold State.hostNext; rw [h]

/-! `offer`. -/

@[simp] theorem State.offer_regs (s : State) (w : BitVec 32) : (s.offer w).regs = s.regs := rfl
@[simp] theorem State.offer_status (s : State) (w : BitVec 32) : (s.offer w).status = s.status := rfl
@[simp] theorem State.offer_doutHi (s : State) (w : BitVec 32) : (s.offer w).doutHi = s.doutHi := rfl
@[simp] theorem State.offer_doutLo (s : State) (w : BitVec 32) : (s.offer w).doutLo = s.doutLo := rfl
@[simp] theorem State.offer_inflight (s : State) (w : BitVec 32) : (s.offer w).inflight = s.inflight := rfl
@[simp] theorem State.offer_done (s : State) (w : BitVec 32) : (s.offer w).done = s.done := rfl
@[simp] theorem State.offer_script (s : State) (w : BitVec 32) : (s.offer w).script = s.script := rfl
@[simp] theorem State.offer_reg (s : State) (w : BitVec 32) (q : Reg) : (s.offer w).reg q = s.reg q := rfl
@[simp] theorem State.offer_written (s : State) (w : BitVec 32) (q : Reg) : (s.offer w).written q = s.written q := rfl

/-! `accept` (70_reset_and_hazards.md R181). -/

@[simp] theorem State.accept_regs (s : State) : (s.accept).regs = s.regs := rfl
@[simp] theorem State.accept_doutHi (s : State) : (s.accept).doutHi = s.doutHi := rfl
@[simp] theorem State.accept_doutLo (s : State) : (s.accept).doutLo = s.doutLo := rfl
@[simp] theorem State.accept_pins (s : State) : (s.accept).pins = s.pins := rfl
@[simp] theorem State.accept_script (s : State) : (s.accept).script = s.script := rfl
@[simp] theorem State.accept_reg (s : State) (q : Reg) : (s.accept).reg q = s.reg q := rfl
@[simp] theorem State.accept_written (s : State) (q : Reg) : (s.accept).written q = s.written q := rfl
@[simp] theorem State.accept_status (s : State) : (s.accept).status = { s.status with busy := true } := rfl
@[simp] theorem State.accept_inflight (s : State) : (s.accept).inflight = some s.latch := rfl
@[simp] theorem State.accept_done (s : State) : (s.accept).done = false := rfl

/-! `drive`: only what the host drives changes. -/

@[simp] theorem State.drive_regs (s : State) (p : Pins) : (s.drive p).regs = s.regs := rfl
@[simp] theorem State.drive_status (s : State) (p : Pins) : (s.drive p).status = s.status := rfl
@[simp] theorem State.drive_doutHi (s : State) (p : Pins) : (s.drive p).doutHi = s.doutHi := rfl
@[simp] theorem State.drive_doutLo (s : State) (p : Pins) : (s.drive p).doutLo = s.doutLo := rfl
@[simp] theorem State.drive_inflight (s : State) (p : Pins) : (s.drive p).inflight = s.inflight := rfl
@[simp] theorem State.drive_done (s : State) (p : Pins) : (s.drive p).done = s.done := rfl
@[simp] theorem State.drive_script (s : State) (p : Pins) : (s.drive p).script = s.script := rfl
@[simp] theorem State.drive_pins (s : State) (p : Pins) : (s.drive p).pins = p := rfl
@[simp] theorem State.drive_reg (s : State) (p : Pins) (q : Reg) : (s.drive p).reg q = s.reg q := rfl
@[simp] theorem State.drive_written (s : State) (p : Pins) (q : Reg) : (s.drive p).written q = s.written q := rfl

/-! `resetEdge` (70_reset_and_hazards.md R180). -/

@[simp] theorem State.resetEdge_pins (s : State) : (s.resetEdge).pins = s.pins := rfl
@[simp] theorem State.resetEdge_script (s : State) : (s.resetEdge).script = s.script := rfl
@[simp] theorem State.resetEdge_status (s : State) : (s.resetEdge).status = .reset := rfl
@[simp] theorem State.resetEdge_doutHi (s : State) : (s.resetEdge).doutHi = 0 := rfl
@[simp] theorem State.resetEdge_doutLo (s : State) : (s.resetEdge).doutLo = 0 := rfl
@[simp] theorem State.resetEdge_inflight (s : State) : (s.resetEdge).inflight = none := rfl
@[simp] theorem State.resetEdge_done (s : State) : (s.resetEdge).done = false := rfl
@[simp] theorem State.resetEdge_written (s : State) (q : Reg) : s.resetEdge.written q = false := by
  simp [State.resetEdge, State.reset, State.written, Vector.get_eq_getElem, WReg.reset]

/-! Commits, by the shape of the effect. -/

@[simp] theorem State.perform_wide_pins (s : State) (rd : Reg) (v : Wide) : (s.perform (.wide rd v)).pins = s.pins := by rfl
@[simp] theorem State.perform_wide_script (s : State) (rd : Reg) (v : Wide) : (s.perform (.wide rd v)).script = s.script := by rfl
@[simp] theorem State.perform_wide_inflight (s : State) (rd : Reg) (v : Wide) : (s.perform (.wide rd v)).inflight = none := by rfl
@[simp] theorem State.perform_wide_done (s : State) (rd : Reg) (v : Wide) : (s.perform (.wide rd v)).done = true := by rfl
@[simp] theorem State.perform_wide_status (s : State) (rd : Reg) (v : Wide) : (s.perform (.wide rd v)).status = { s.status with busy := false } := by rfl
@[simp] theorem State.perform_wide_doutHi (s : State) (rd : Reg) (v : Wide) : (s.perform (.wide rd v)).doutHi = s.doutHi := by rfl
@[simp] theorem State.perform_wide_doutLo (s : State) (rd : Reg) (v : Wide) : (s.perform (.wide rd v)).doutLo = s.doutLo := by rfl
@[simp] theorem State.perform_wide_reg (s : State) (rd : Reg) (v : Wide) (q : Reg) :
    (s.perform (.wide rd v)).reg q = if q = rd then v else s.reg q := State.setReg_reg s rd q v
@[simp] theorem State.perform_wide_written (s : State) (rd : Reg) (v : Wide) (q : Reg) :
    (s.perform (.wide rd v)).written q = if q = rd then true else s.written q := State.setReg_written s rd q v

@[simp] theorem State.perform_wideCarry_pins (s : State) (rd : Reg) (v : Wide) (c : Bool) : (s.perform (.wideCarry rd v c)).pins = s.pins := by rfl
@[simp] theorem State.perform_wideCarry_script (s : State) (rd : Reg) (v : Wide) (c : Bool) : (s.perform (.wideCarry rd v c)).script = s.script := by rfl
@[simp] theorem State.perform_wideCarry_inflight (s : State) (rd : Reg) (v : Wide) (c : Bool) : (s.perform (.wideCarry rd v c)).inflight = none := by rfl
@[simp] theorem State.perform_wideCarry_done (s : State) (rd : Reg) (v : Wide) (c : Bool) : (s.perform (.wideCarry rd v c)).done = true := by rfl
@[simp] theorem State.perform_wideCarry_status (s : State) (rd : Reg) (v : Wide) (c : Bool) : (s.perform (.wideCarry rd v c)).status = { s.status with busy := false, c := c } := by rfl
@[simp] theorem State.perform_wideCarry_doutHi (s : State) (rd : Reg) (v : Wide) (c : Bool) : (s.perform (.wideCarry rd v c)).doutHi = s.doutHi := by rfl
@[simp] theorem State.perform_wideCarry_doutLo (s : State) (rd : Reg) (v : Wide) (c : Bool) : (s.perform (.wideCarry rd v c)).doutLo = s.doutLo := by rfl
@[simp] theorem State.perform_wideCarry_reg (s : State) (rd : Reg) (v : Wide) (c : Bool) (q : Reg) :
    (s.perform (.wideCarry rd v c)).reg q = if q = rd then v else s.reg q := State.setReg_reg s rd q v
@[simp] theorem State.perform_wideCarry_written (s : State) (rd : Reg) (v : Wide) (c : Bool) (q : Reg) :
    (s.perform (.wideCarry rd v c)).written q = if q = rd then true else s.written q := State.setReg_written s rd q v

@[simp] theorem State.perform_widePair_pins (s : State) (rd : Reg) (v : Wide) (re : Reg) (u : Wide) : (s.perform (.widePair rd v re u)).pins = s.pins := by rfl
@[simp] theorem State.perform_widePair_script (s : State) (rd : Reg) (v : Wide) (re : Reg) (u : Wide) : (s.perform (.widePair rd v re u)).script = s.script := by rfl
@[simp] theorem State.perform_widePair_inflight (s : State) (rd : Reg) (v : Wide) (re : Reg) (u : Wide) : (s.perform (.widePair rd v re u)).inflight = none := by rfl
@[simp] theorem State.perform_widePair_done (s : State) (rd : Reg) (v : Wide) (re : Reg) (u : Wide) : (s.perform (.widePair rd v re u)).done = true := by rfl
@[simp] theorem State.perform_widePair_status (s : State) (rd : Reg) (v : Wide) (re : Reg) (u : Wide) : (s.perform (.widePair rd v re u)).status = { s.status with busy := false } := by rfl
@[simp] theorem State.perform_widePair_doutHi (s : State) (rd : Reg) (v : Wide) (re : Reg) (u : Wide) : (s.perform (.widePair rd v re u)).doutHi = s.doutHi := by rfl
@[simp] theorem State.perform_widePair_doutLo (s : State) (rd : Reg) (v : Wide) (re : Reg) (u : Wide) : (s.perform (.widePair rd v re u)).doutLo = s.doutLo := by rfl
@[simp] theorem State.perform_widePair_reg (s : State) (rd : Reg) (v : Wide) (re : Reg) (u : Wide) (q : Reg) :
    (s.perform (.widePair rd v re u)).reg q = if q = re then u else if q = rd then v else s.reg q := by
  rw [← State.setReg_reg s rd q v]; exact State.setReg_reg (s.setReg rd v) re q u
@[simp] theorem State.perform_widePair_written (s : State) (rd : Reg) (v : Wide) (re : Reg) (u : Wide) (q : Reg) :
    (s.perform (.widePair rd v re u)).written q = if q = re then true else if q = rd then true else s.written q := by
  rw [← State.setReg_written s rd q v]; exact State.setReg_written (s.setReg rd v) re q u

@[simp] theorem State.perform_dout_pins (s : State) (h l : Word) : (s.perform (.dout h l)).pins = s.pins := by rfl
@[simp] theorem State.perform_dout_script (s : State) (h l : Word) : (s.perform (.dout h l)).script = s.script := by rfl
@[simp] theorem State.perform_dout_inflight (s : State) (h l : Word) : (s.perform (.dout h l)).inflight = none := by rfl
@[simp] theorem State.perform_dout_done (s : State) (h l : Word) : (s.perform (.dout h l)).done = true := by rfl
@[simp] theorem State.perform_dout_status (s : State) (h l : Word) : (s.perform (.dout h l)).status = { s.status with busy := false } := by rfl
@[simp] theorem State.perform_dout_doutHi (s : State) (h l : Word) : (s.perform (.dout h l)).doutHi = h := by rfl
@[simp] theorem State.perform_dout_doutLo (s : State) (h l : Word) : (s.perform (.dout h l)).doutLo = l := by rfl
@[simp] theorem State.perform_dout_regs (s : State) (h l : Word) : (s.perform (.dout h l)).regs = s.regs := by rfl
@[simp] theorem State.perform_dout_reg (s : State) (h l : Word) (q : Reg) : (s.perform (.dout h l)).reg q = s.reg q := by rfl
@[simp] theorem State.perform_dout_written (s : State) (h l : Word) (q : Reg) : (s.perform (.dout h l)).written q = s.written q := by rfl

@[simp] theorem State.perform_flagF_pins (s : State) (b : Bool) : (s.perform (.flagF b)).pins = s.pins := by rfl
@[simp] theorem State.perform_flagF_script (s : State) (b : Bool) : (s.perform (.flagF b)).script = s.script := by rfl
@[simp] theorem State.perform_flagF_inflight (s : State) (b : Bool) : (s.perform (.flagF b)).inflight = none := by rfl
@[simp] theorem State.perform_flagF_done (s : State) (b : Bool) : (s.perform (.flagF b)).done = true := by rfl
@[simp] theorem State.perform_flagF_status (s : State) (b : Bool) : (s.perform (.flagF b)).status = { s.status with busy := false, f := b } := by rfl
@[simp] theorem State.perform_flagF_doutHi (s : State) (b : Bool) : (s.perform (.flagF b)).doutHi = s.doutHi := by rfl
@[simp] theorem State.perform_flagF_doutLo (s : State) (b : Bool) : (s.perform (.flagF b)).doutLo = s.doutLo := by rfl
@[simp] theorem State.perform_flagF_regs (s : State) (b : Bool) : (s.perform (.flagF b)).regs = s.regs := by rfl
@[simp] theorem State.perform_flagF_reg (s : State) (b : Bool) (q : Reg) : (s.perform (.flagF b)).reg q = s.reg q := by rfl
@[simp] theorem State.perform_flagF_written (s : State) (b : Bool) (q : Reg) : (s.perform (.flagF b)).written q = s.written q := by rfl

@[simp] theorem State.perform_fault (s : State) (code : FCode) : s.perform (.fault code) = s.raise code := rfl

end Sys2Proof.Machine
end

