-- ==== Sys2Proof/Laws/Commit.lean ====
section
/-! SUPPORT. What each commit does, in the terms claims are stated in (Safety.lean): one lemma per shape of effect, one for a fault, and one that lists the cases of a step. -/

namespace Sys2Proof.Machine

theorem perform_wide_wrote (s : State) (rd : Reg) (v : Wide) : WroteRegs s (s.perform (.wide rd v)) [rd] where
  ended := ⟨rfl, rfl, rfl, rfl, rfl, rfl, rfl⟩
  others := fun r hr => by
    have h : r ≠ rd := by simpa using hr
    simp [h]
  written := fun r hr => by
    have h : r = rd := by simpa using hr
    simp [h]
  f := rfl
  dout := ⟨rfl, rfl⟩

theorem perform_wideCarry_wrote (s : State) (rd : Reg) (v : Wide) (c : Bool) :
    WroteRegs s (s.perform (.wideCarry rd v c)) [rd] where
  ended := ⟨rfl, rfl, rfl, rfl, rfl, rfl, rfl⟩
  others := fun r hr => by
    have h : r ≠ rd := by simpa using hr
    simp [h]
  written := fun r hr => by
    have h : r = rd := by simpa using hr
    simp [h]
  f := rfl
  dout := ⟨rfl, rfl⟩

theorem perform_widePair_wrote (s : State) (rd : Reg) (v : Wide) (re : Reg) (u : Wide) :
    WroteRegs s (s.perform (.widePair rd v re u)) [rd, re] where
  ended := ⟨rfl, rfl, rfl, rfl, rfl, rfl, rfl⟩
  others := fun r hr => by
    have h : r ≠ rd ∧ r ≠ re := by simpa using hr
    simp [h.1, h.2]
  written := fun r hr => by
    have h : r = rd ∨ r = re := by simpa using hr
    rcases h with h | h <;> simp [h]
  f := rfl
  dout := ⟨rfl, rfl⟩

theorem perform_flagF_wrote (s : State) (b : Bool) : WroteF s (s.perform (.flagF b)) where
  ended := ⟨rfl, rfl, rfl, rfl, rfl, rfl, rfl⟩
  regs := fun _ _ => ⟨rfl, rfl⟩
  c := rfl
  dout := ⟨rfl, rfl⟩

theorem perform_dout_wrote (s : State) (h l : Word) : WroteDout s (s.perform (.dout h l)) h l where
  ended := ⟨rfl, rfl, rfl, rfl, rfl, rfl, rfl⟩
  regs := fun _ _ => ⟨rfl, rfl⟩
  f := rfl
  c := rfl
  hi := rfl
  lo := rfl

theorem raise_faulted (s : State) (code : FCode) : Faulted s (s.raise code) code where
  fault := rfl
  fcode := rfl
  busy := rfl
  regs := fun _ _ => ⟨rfl, rfl⟩
  f := rfl
  c := rfl
  dout := ⟨rfl, rfl⟩
  inflight := rfl
  done := rfl
  pins := rfl
  script := rfl

/-- What a commit leaves of the block depends on the block alone (10_state.md R33). -/
theorem perform_toBlock_congr (s t : State) (h : t.toBlock = s.toBlock) (e : Effect) :
    (t.perform e).toBlock = (s.perform e).toBlock := by
  obtain ⟨b, p, l⟩ := s
  obtain ⟨c, p', l'⟩ := t
  cases h
  cases e <;> rfl

/-- A command is the commit of its effect on the operands and DIN words of the state it runs in. -/
theorem exec_eq_effect (i : Instr) (s : State) :
    ∃ a b, (∀ o, i.operandA = some o → a = o.value s) ∧ (∀ o, i.operandB = some o → b = o.value s) ∧
      exec i s = .next (s.perform (effectOf i s.pins.dinHi s.pins.dinLo a b)) := by
  refine ⟨(i.operandA.map (·.value s)).getD .zero, (i.operandB.map (·.value s)).getD .zero, ?_, ?_, ?_⟩
  · intro o h
    rw [h]; rfl
  · intro o h
    rw [h]; rfl
  · cases i <;> rfl

/-- Every command has its effect in every state. -/
theorem exec_next (i : Instr) (s : State) : ∃ t, exec i s = .next t := by
  obtain ⟨a, b, -, -, h⟩ := exec_eq_effect i s
  exact ⟨_, h⟩

/-- When the strict machine stops on a command. -/
theorem strictExec_unwritten_iff (i : Instr) (s : State) :
    strictExec i s = .fault .unwritten ↔ i.readsUnwritten s = true := by
  obtain ⟨t, h⟩ := exec_next i s
  unfold strictExec
  split <;> simp_all

/-- A run goes on from the next state of its first step. -/
theorem run_next (n : Nat) (s t : State) (h : step s = .next t) :
    Host.Core.run Sys2Proof.core (n + 1) s = Host.Core.run Sys2Proof.core n t := by
  have general : ∀ (m : Host.Core) (u v : m.State), m.step u = .next v → m.run (n + 1) u = m.run n v := by
    intro m u v hv
    rw [Host.Core.run, hv]
  exact general Sys2Proof.core s t h

/-- The cases of a clock edge: reset, a busy edge, acceptance, holding. -/
theorem clockEdge_cases (p : Pins) (s : State) :
    (p.rst = true ∧ clockEdge p s = (s.drive p).resetEdge) ∨
    (p.rst = false ∧ s.status.busy = true ∧ clockEdge p s = (s.drive p).busyEdge) ∨
    ((s.drive p).cmdReady = true ∧ p.cmdValid = true ∧ clockEdge p s = (s.drive p).accept) ∨
    (p.rst = false ∧ s.status.busy = false ∧ (p.cmdValid = false ∨ s.status.fault = true) ∧
      clockEdge p s = (s.drive p).hold) := by
  unfold clockEdge State.cmdReady State.drive
  rcases p.rst with _ | _ <;> rcases s.status.busy with _ | _ <;> rcases p.cmdValid with _ | _ <;>
    rcases s.status.fault with _ | _ <;> simp

/-- The cases of a busy edge with a command in flight. -/
theorem busyEdge_cases (s : State) (f : InFlight) (h : s.inflight = some f) :
    (f.left ≤ 1 ∧ s.busyEdge = s.perform f.effect) ∨
    (1 < f.left ∧ s.busyEdge = { s with inflight := some f.tick, done := false }) := by
  unfold State.busyEdge State.commit
  simp only [h]
  by_cases hl : f.left ≤ 1
  · exact .inl ⟨hl, if_pos hl⟩
  · exact .inr ⟨by omega, if_neg hl⟩

/-- The cases of a step: a reset edge, the commit of a command in flight, an idle edge, waiting after a fault, an ILLEGAL
word, or a command that runs. -/
theorem runStep_cases (run : Instr → State → Result) (s : State) :
    (s.pins.rst = true ∧ runStep run s = .next s.resetEdge.hostNext) ∨
    (s.pins.rst = false ∧ s.status.busy = true ∧ runStep run s = .next s.commit) ∨
    (s.pins.rst = false ∧ s.status.busy = false ∧ s.pins.cmdValid = false ∧ runStep run s = .next s.hold.hostNext) ∨
    (s.pins.rst = false ∧ s.status.busy = false ∧ s.pins.cmdValid = true ∧ s.status.fault = true ∧
      runStep run s = .next s.hold) ∨
    (s.cmdReady = true ∧ s.pins.cmdValid = true ∧ (∃ why, decode s.pins.cmd = .illegal why) ∧
      runStep run s = .next (s.raise .illegal).hostNext) ∨
    (s.cmdReady = true ∧ s.pins.cmdValid = true ∧ ∃ i, decode s.pins.cmd = .command i ∧
      runStep run s = thenHostNext (run i s)) := by
  unfold runStep acceptAndRun State.cmdReady
  rcases s.pins.rst with _ | _ <;> rcases s.status.busy with _ | _ <;> rcases s.pins.cmdValid with _ | _ <;>
    rcases s.status.fault with _ | _ <;> simp
  cases h : decode s.pins.cmd <;> simp [thenHostNext]

end Sys2Proof.Machine
end

