-- ==== Sys2Proof/Laws/Encoding.lean ====
section
/-! SUPPORT. The fields of an encoded word are the fields it was made of (30_encoding.md R50), one lemma a field. -/

namespace Sys2Proof

section fields

variable (op : BitVec 6) (rd ra rb re : Reg) (x y : Bool) (t : NativeType)

@[simp] theorem opField_cmdWord : opField (cmdWord op rd ra rb re x y t) = op := by
  apply BitVec.eq_of_getLsbD_eq
  intro i hi
  simp only [opField, cmdWord, BitVec.getLsbD_extractLsb', BitVec.getLsbD_append, Nat.zero_add]
  simp [hi]

@[simp] theorem rdField_cmdWord : rdField (cmdWord op rd ra rb re x y t) = rd := by
  have h : (cmdWord op rd ra rb re x y t).extractLsb' 6 3 = regBits rd := by
    apply BitVec.eq_of_getLsbD_eq
    intro i hi
    simp only [cmdWord, BitVec.getLsbD_extractLsb', BitVec.getLsbD_append]
    interval_cases i <;> simp
  simp only [rdField, h]
  rfl

@[simp] theorem raField_cmdWord : raField (cmdWord op rd ra rb re x y t) = ra := by
  have h : (cmdWord op rd ra rb re x y t).extractLsb' 9 3 = regBits ra := by
    apply BitVec.eq_of_getLsbD_eq
    intro i hi
    simp only [cmdWord, BitVec.getLsbD_extractLsb', BitVec.getLsbD_append]
    interval_cases i <;> simp
  simp only [raField, h]
  rfl

@[simp] theorem rbField_cmdWord : rbField (cmdWord op rd ra rb re x y t) = rb := by
  have h : (cmdWord op rd ra rb re x y t).extractLsb' 12 3 = regBits rb := by
    apply BitVec.eq_of_getLsbD_eq
    intro i hi
    simp only [cmdWord, BitVec.getLsbD_extractLsb', BitVec.getLsbD_append]
    interval_cases i <;> simp
  simp only [rbField, h]
  rfl

@[simp] theorem reField_cmdWord : reField (cmdWord op rd ra rb re x y t) = re := by
  have h : (cmdWord op rd ra rb re x y t).extractLsb' 15 3 = regBits re := by
    apply BitVec.eq_of_getLsbD_eq
    intro i hi
    simp only [cmdWord, BitVec.getLsbD_extractLsb', BitVec.getLsbD_append]
    interval_cases i <;> simp
  simp only [reField, h]
  rfl

@[simp] theorem aselField_cmdWord : aselField (cmdWord op rd ra rb re x y t) = x := by
  simp only [aselField, cmdWord, BitVec.getLsbD_append]
  simp

@[simp] theorem bselField_cmdWord : bselField (cmdWord op rd ra rb re x y t) = y := by
  simp only [bselField, cmdWord, BitVec.getLsbD_append]
  simp

@[simp] theorem nwField_cmdWord : nwField (cmdWord op rd ra rb re x y t) = t.width.code := by
  apply BitVec.eq_of_getLsbD_eq
  intro i hi
  simp only [nwField, cmdWord, BitVec.getLsbD_extractLsb', BitVec.getLsbD_append]
  interval_cases i <;> simp

@[simp] theorem nsField_cmdWord : nsField (cmdWord op rd ra rb re x y t) = t.signed := by
  simp only [nsField, cmdWord, BitVec.getLsbD_append]
  simp

@[simp] theorem rsvField_cmdWord : rsvField (cmdWord op rd ra rb re x y t) = 0 := by
  apply BitVec.eq_of_getLsbD_eq
  intro i hi
  simp only [rsvField, cmdWord, BitVec.getLsbD_extractLsb', BitVec.getLsbD_append]
  interval_cases i <;> simp

@[simp] theorem NativeWidth.ofCode_code (w : NativeWidth) : NativeWidth.ofCode w.code = w := by
  cases w <;> rfl

@[simp] theorem typeField_cmdWord : typeField (cmdWord op rd ra rb re x y t) = t := by
  simp [typeField]

end fields

end Sys2Proof
end

