-- ==== Sys2Proof/Laws/PerInstr.lean ====
section
/-! SUPPORT. What is said of every command as syntax, one lemma a command: its word carries its row's OP and clear reserved bits (30_encoding.md R50, R52, R54). -/

namespace Sys2Proof.Laws.EncodesTableRow

/-- OP of the word is the row's, and RSV is 0: the bits the table's mask 0xFF80003F selects. -/
def Statement (i : Instr) : Prop := opField (encode i) = i.opcode ∧ rsvField (encode i) = 0

theorem ofWord (i : Instr) (rd ra rb re : Reg) (x y : Bool) (t : NativeType)
    (h : encode i = cmdWord i.opcode rd ra rb re x y t) : Statement i := by
  unfold Statement
  rw [h]
  exact ⟨opField_cmdWord .., rsvField_cmdWord ..⟩

end Sys2Proof.Laws.EncodesTableRow

theorem Sys2Proof.Laws.EncodesTableRow.mov (rd : Sys2Proof.Reg) (a : Sys2Proof.Operand) :
    Sys2Proof.Laws.EncodesTableRow.Statement (.mov rd a) :=
  Sys2Proof.Laws.EncodesTableRow.ofWord _ _ _ _ _ _ _ _ rfl

theorem Sys2Proof.Laws.EncodesTableRow.pair (rd : Sys2Proof.Reg) :
    Sys2Proof.Laws.EncodesTableRow.Statement (.pair rd) :=
  Sys2Proof.Laws.EncodesTableRow.ofWord _ _ _ _ _ _ _ _ rfl

theorem Sys2Proof.Laws.EncodesTableRow.cvtf32 (rd : Sys2Proof.Reg) :
    Sys2Proof.Laws.EncodesTableRow.Statement (.cvtf32 rd) :=
  Sys2Proof.Laws.EncodesTableRow.ofWord _ _ _ _ _ _ _ _ rfl

theorem Sys2Proof.Laws.EncodesTableRow.cvtf64 (rd : Sys2Proof.Reg) :
    Sys2Proof.Laws.EncodesTableRow.Statement (.cvtf64 rd) :=
  Sys2Proof.Laws.EncodesTableRow.ofWord _ _ _ _ _ _ _ _ rfl

theorem Sys2Proof.Laws.EncodesTableRow.rdw (a : Sys2Proof.Operand) :
    Sys2Proof.Laws.EncodesTableRow.Statement (.rdw a) :=
  Sys2Proof.Laws.EncodesTableRow.ofWord _ _ _ _ _ _ _ _ rfl

theorem Sys2Proof.Laws.EncodesTableRow.trunc (t : Sys2Proof.NativeType) (a : Sys2Proof.Operand) :
    Sys2Proof.Laws.EncodesTableRow.Statement (.trunc t a) :=
  Sys2Proof.Laws.EncodesTableRow.ofWord _ _ _ _ _ _ _ _ rfl

theorem Sys2Proof.Laws.EncodesTableRow.tof32 (a : Sys2Proof.Operand) :
    Sys2Proof.Laws.EncodesTableRow.Statement (.tof32 a) :=
  Sys2Proof.Laws.EncodesTableRow.ofWord _ _ _ _ _ _ _ _ rfl

theorem Sys2Proof.Laws.EncodesTableRow.tof64 (a : Sys2Proof.Operand) :
    Sys2Proof.Laws.EncodesTableRow.Statement (.tof64 a) :=
  Sys2Proof.Laws.EncodesTableRow.ofWord _ _ _ _ _ _ _ _ rfl

theorem Sys2Proof.Laws.EncodesTableRow.tobool (a : Sys2Proof.Operand) :
    Sys2Proof.Laws.EncodesTableRow.Statement (.tobool a) :=
  Sys2Proof.Laws.EncodesTableRow.ofWord _ _ _ _ _ _ _ _ rfl

theorem Sys2Proof.Laws.EncodesTableRow.add (rd : Sys2Proof.Reg) (a : Sys2Proof.Operand) (b : Sys2Proof.Operand) :
    Sys2Proof.Laws.EncodesTableRow.Statement (.add rd a b) :=
  Sys2Proof.Laws.EncodesTableRow.ofWord _ _ _ _ _ _ _ _ rfl

theorem Sys2Proof.Laws.EncodesTableRow.sub (rd : Sys2Proof.Reg) (a : Sys2Proof.Operand) (b : Sys2Proof.Operand) :
    Sys2Proof.Laws.EncodesTableRow.Statement (.sub rd a b) :=
  Sys2Proof.Laws.EncodesTableRow.ofWord _ _ _ _ _ _ _ _ rfl

theorem Sys2Proof.Laws.EncodesTableRow.neg (rd : Sys2Proof.Reg) (a : Sys2Proof.Operand) :
    Sys2Proof.Laws.EncodesTableRow.Statement (.neg rd a) :=
  Sys2Proof.Laws.EncodesTableRow.ofWord _ _ _ _ _ _ _ _ rfl

theorem Sys2Proof.Laws.EncodesTableRow.inc (rd : Sys2Proof.Reg) (a : Sys2Proof.Operand) :
    Sys2Proof.Laws.EncodesTableRow.Statement (.inc rd a) :=
  Sys2Proof.Laws.EncodesTableRow.ofWord _ _ _ _ _ _ _ _ rfl

theorem Sys2Proof.Laws.EncodesTableRow.dec (rd : Sys2Proof.Reg) (a : Sys2Proof.Operand) :
    Sys2Proof.Laws.EncodesTableRow.Statement (.dec rd a) :=
  Sys2Proof.Laws.EncodesTableRow.ofWord _ _ _ _ _ _ _ _ rfl

theorem Sys2Proof.Laws.EncodesTableRow.not (rd : Sys2Proof.Reg) (a : Sys2Proof.Operand) :
    Sys2Proof.Laws.EncodesTableRow.Statement (.not rd a) :=
  Sys2Proof.Laws.EncodesTableRow.ofWord _ _ _ _ _ _ _ _ rfl

theorem Sys2Proof.Laws.EncodesTableRow.and (rd : Sys2Proof.Reg) (a : Sys2Proof.Operand) (b : Sys2Proof.Operand) :
    Sys2Proof.Laws.EncodesTableRow.Statement (.and rd a b) :=
  Sys2Proof.Laws.EncodesTableRow.ofWord _ _ _ _ _ _ _ _ rfl

theorem Sys2Proof.Laws.EncodesTableRow.or (rd : Sys2Proof.Reg) (a : Sys2Proof.Operand) (b : Sys2Proof.Operand) :
    Sys2Proof.Laws.EncodesTableRow.Statement (.or rd a b) :=
  Sys2Proof.Laws.EncodesTableRow.ofWord _ _ _ _ _ _ _ _ rfl

theorem Sys2Proof.Laws.EncodesTableRow.xor (rd : Sys2Proof.Reg) (a : Sys2Proof.Operand) (b : Sys2Proof.Operand) :
    Sys2Proof.Laws.EncodesTableRow.Statement (.xor rd a b) :=
  Sys2Proof.Laws.EncodesTableRow.ofWord _ _ _ _ _ _ _ _ rfl

theorem Sys2Proof.Laws.EncodesTableRow.eq (a : Sys2Proof.Operand) (b : Sys2Proof.Operand) :
    Sys2Proof.Laws.EncodesTableRow.Statement (.eq a b) :=
  Sys2Proof.Laws.EncodesTableRow.ofWord _ _ _ _ _ _ _ _ rfl

theorem Sys2Proof.Laws.EncodesTableRow.ne (a : Sys2Proof.Operand) (b : Sys2Proof.Operand) :
    Sys2Proof.Laws.EncodesTableRow.Statement (.ne a b) :=
  Sys2Proof.Laws.EncodesTableRow.ofWord _ _ _ _ _ _ _ _ rfl

theorem Sys2Proof.Laws.EncodesTableRow.lt (a : Sys2Proof.Operand) (b : Sys2Proof.Operand) :
    Sys2Proof.Laws.EncodesTableRow.Statement (.lt a b) :=
  Sys2Proof.Laws.EncodesTableRow.ofWord _ _ _ _ _ _ _ _ rfl

theorem Sys2Proof.Laws.EncodesTableRow.le (a : Sys2Proof.Operand) (b : Sys2Proof.Operand) :
    Sys2Proof.Laws.EncodesTableRow.Statement (.le a b) :=
  Sys2Proof.Laws.EncodesTableRow.ofWord _ _ _ _ _ _ _ _ rfl

theorem Sys2Proof.Laws.EncodesTableRow.gt (a : Sys2Proof.Operand) (b : Sys2Proof.Operand) :
    Sys2Proof.Laws.EncodesTableRow.Statement (.gt a b) :=
  Sys2Proof.Laws.EncodesTableRow.ofWord _ _ _ _ _ _ _ _ rfl

theorem Sys2Proof.Laws.EncodesTableRow.ge (a : Sys2Proof.Operand) (b : Sys2Proof.Operand) :
    Sys2Proof.Laws.EncodesTableRow.Statement (.ge a b) :=
  Sys2Proof.Laws.EncodesTableRow.ofWord _ _ _ _ _ _ _ _ rfl

theorem Sys2Proof.Laws.EncodesTableRow.mul (rd : Sys2Proof.Reg) (a : Sys2Proof.Operand) (b : Sys2Proof.Operand) :
    Sys2Proof.Laws.EncodesTableRow.Statement (.mul rd a b) :=
  Sys2Proof.Laws.EncodesTableRow.ofWord _ _ _ _ _ _ _ _ rfl

theorem Sys2Proof.Laws.EncodesTableRow.div (rd : Sys2Proof.Reg) (a : Sys2Proof.Operand) (b : Sys2Proof.Operand) :
    Sys2Proof.Laws.EncodesTableRow.Statement (.div rd a b) :=
  Sys2Proof.Laws.EncodesTableRow.ofWord _ _ _ _ _ _ _ _ rfl

theorem Sys2Proof.Laws.EncodesTableRow.mod (rd : Sys2Proof.Reg) (a : Sys2Proof.Operand) (b : Sys2Proof.Operand) :
    Sys2Proof.Laws.EncodesTableRow.Statement (.mod rd a b) :=
  Sys2Proof.Laws.EncodesTableRow.ofWord _ _ _ _ _ _ _ _ rfl

theorem Sys2Proof.Laws.EncodesTableRow.divmod (rd : Sys2Proof.Reg) (re : Sys2Proof.Reg) (a : Sys2Proof.Operand) (b : Sys2Proof.Operand) :
    Sys2Proof.Laws.EncodesTableRow.Statement (.divmod rd re a b) :=
  Sys2Proof.Laws.EncodesTableRow.ofWord _ _ _ _ _ _ _ _ rfl

theorem Sys2Proof.Laws.EncodesTableRow.shl (rd : Sys2Proof.Reg) (a : Sys2Proof.Operand) (b : Sys2Proof.Operand) :
    Sys2Proof.Laws.EncodesTableRow.Statement (.shl rd a b) :=
  Sys2Proof.Laws.EncodesTableRow.ofWord _ _ _ _ _ _ _ _ rfl

theorem Sys2Proof.Laws.EncodesTableRow.shr (rd : Sys2Proof.Reg) (a : Sys2Proof.Operand) (b : Sys2Proof.Operand) :
    Sys2Proof.Laws.EncodesTableRow.Statement (.shr rd a b) :=
  Sys2Proof.Laws.EncodesTableRow.ofWord _ _ _ _ _ _ _ _ rfl
end

