-- ==== Sys2Proof/Tests/Slice0.lean ====
section
/-! SUPPORT. Tests, with expected values from 95_test_vectors.md (cited as 95) or worked out from the rule named, and a witness for the hypotheses of every obligation that has some. -/

namespace Sys2Proof.Tests

open Sys2Proof Sys2Proof.Machine

/-- `ONES_64`. -/
def o64 : Word := 0xFFFFFFFFFFFFFFFF

/-- The state after reset with some registers written, and DIN driven. -/
def bench (rs : List (Reg × Wide)) (dinHi dinLo : Word) : State :=
  { rs.foldl (fun s p => s.setReg p.1 p.2) State.reset with pins := ⟨false, false, 0, dinHi, dinLo⟩ }

/-- Two registers, A in W0 and B in W1. -/
def ab (a b : Wide) : State := bench [(0, a), (1, b)] 0 0

/-- The state an answer holds. -/
def nextOf : Result → Option State
  | .next t => some t
  | .fault _ => none
  | .refused _ => none

/-- The state after a command. -/
def after (i : Instr) (s : State) : State := (nextOf (exec i s)).getD s

theorem exec_after (i : Instr) (s : State) : exec i s = .next (after i s) := by
  obtain ⟨t, h⟩ := exec_next i s
  rw [after, h]
  rfl

/-- The state after a step. -/
def afterStep (s : State) : State := (nextOf (step s)).getD s

/-! WellFormed refuses what no word encodes. -/

theorem test_wellFormed_refuses_trunc_of_another_type :
    (Instr.trunc ⟨.w32, true⟩ (.din ⟨.w32, false⟩)).wellFormed = false := by decide

theorem test_wellFormed_refuses_two_din_types :
    ([.add 0 (.din ⟨.w8, true⟩) (.din ⟨.w16, true⟩), .eq (.din ⟨.w8, true⟩) (.din ⟨.w8, false⟩),
      .mul 0 (.din ⟨.w8, true⟩) (.din ⟨.w16, true⟩), .div 0 (.din ⟨.w8, true⟩) (.din ⟨.w16, true⟩),
      .shl 0 (.din ⟨.w8, true⟩) (.din ⟨.w16, true⟩), .xor 0 (.din ⟨.w8, true⟩) (.din ⟨.w16, true⟩)] : List Instr).all
      (!·.wellFormed) = true := by decide

theorem test_wellFormed_refuses_divmod_same_destinations :
    (Instr.divmod 3 3 (.reg 0) (.reg 1)).wellFormed = false := by decide

theorem test_wellFormed_takes_one_din_type :
    (Instr.add 0 (.din ⟨.w8, true⟩) (.din ⟨.w8, true⟩)).wellFormed = true := by decide

/-! Decoding. The words are written out by the fields of R50: RSV, NS, NW, BSEL, ASEL, RE, RB, RA, RD, OP. -/

theorem test_decode_conversion :
    decode 0b000000000_1_01_0_1_000_000_000_101_000001#32 = .command (.mov 5 (.din ⟨.w16, true⟩)) ∧
    decode 0b000000000_0_00_0_0_000_000_110_011_000001#32 = .command (.mov 3 (.reg 6)) ∧
    decode 0b000000000_0_00_0_0_000_000_000_110_000010#32 = .command (.pair 6) ∧
    decode 0b000000000_0_00_0_0_000_000_000_001_000011#32 = .command (.cvtf32 1) ∧
    decode 0b000000000_0_00_0_0_000_000_000_100_000100#32 = .command (.cvtf64 4) ∧
    decode 0b000000000_0_00_0_0_000_000_011_000_000101#32 = .command (.rdw (.reg 3)) ∧
    decode 0b000000000_0_10_0_0_000_000_110_000_000110#32 = .command (.trunc ⟨.w32, false⟩ (.reg 6)) ∧
    decode 0b000000000_1_00_0_1_000_000_000_000_000110#32 = .command (.trunc ⟨.w8, true⟩ (.din ⟨.w8, true⟩)) ∧
    decode 0b000000000_0_00_0_0_000_000_001_000_000111#32 = .command (.tof32 (.reg 1)) ∧
    decode 0b000000000_0_11_0_1_000_000_000_000_001000#32 = .command (.tof64 (.din ⟨.w64, false⟩)) ∧
    decode 0b000000000_0_00_0_0_000_000_111_000_001001#32 = .command (.tobool (.reg 7)) := by decide

theorem test_decode_additive_bitwise :
    decode 0b000000000_0_00_0_0_000_010_001_011_010000#32 = .command (.add 3 (.reg 1) (.reg 2)) ∧
    decode 0b000000000_1_01_1_0_000_000_100_111_010001#32 = .command (.sub 7 (.reg 4) (.din ⟨.w16, true⟩)) ∧
    decode 0b000000000_0_00_0_0_000_000_001_100_010010#32 = .command (.neg 4 (.reg 1)) ∧
    decode 0b000000000_0_00_0_0_000_000_010_101_010011#32 = .command (.inc 5 (.reg 2)) ∧
    decode 0b000000000_0_00_0_0_000_000_011_110_010100#32 = .command (.dec 6 (.reg 3)) ∧
    decode 0b000000000_0_00_0_0_000_000_110_001_010101#32 = .command (.not 1 (.reg 6)) ∧
    decode 0b000000000_0_00_0_0_000_011_101_010_010110#32 = .command (.and 2 (.reg 5) (.reg 3)) ∧
    decode 0b000000000_0_10_0_1_000_110_000_100_010111#32 = .command (.or 4 (.din ⟨.w32, false⟩) (.reg 6)) ∧
    decode 0b000000000_0_00_0_0_000_001_010_011_011000#32 = .command (.xor 3 (.reg 2) (.reg 1)) := by decide

theorem test_decode_compare :
    decode 0b000000000_0_00_0_0_000_001_101_000_011001#32 = .command (.eq (.reg 5) (.reg 1)) ∧
    decode 0b000000000_0_00_0_0_000_010_100_000_011010#32 = .command (.ne (.reg 4) (.reg 2)) ∧
    decode 0b000000000_0_00_0_0_000_010_000_000_011011#32 = .command (.lt (.reg 0) (.reg 2)) ∧
    decode 0b000000000_1_11_1_0_000_000_011_000_011100#32 = .command (.le (.reg 3) (.din ⟨.w64, true⟩)) ∧
    decode 0b000000000_1_11_0_1_000_110_000_000_011101#32 = .command (.gt (.din ⟨.w64, true⟩) (.reg 6)) ∧
    decode 0b000000000_0_01_1_1_000_000_000_000_011110#32 = .command (.ge (.din ⟨.w16, false⟩) (.din ⟨.w16, false⟩)) := by
  decide

theorem test_decode_multiply_divide_shift :
    decode 0b000000000_0_00_1_0_000_000_010_100_100000#32 = .command (.mul 4 (.reg 2) (.din ⟨.w8, false⟩)) ∧
    decode 0b000000000_0_00_1_0_000_000_000_001_100100#32 = .command (.div 1 (.reg 0) (.din ⟨.w8, false⟩)) ∧
    decode 0b000000000_0_00_0_0_000_101_011_110_100101#32 = .command (.mod 6 (.reg 3) (.reg 5)) ∧
    decode 0b000000000_0_00_1_0_011_000_001_010_100110#32 = .command (.divmod 2 3 (.reg 1) (.din ⟨.w8, false⟩)) ∧
    decode 0b000000000_0_00_0_0_000_100_111_101_101000#32 = .command (.shl 5 (.reg 7) (.reg 4)) ∧
    decode 0b000000000_0_00_1_0_000_000_000_010_101001#32 = .command (.shr 2 (.reg 0) (.din ⟨.w8, false⟩)) := by decide

/-- The words of the programs P1 to P7 of 95, encoded. -/
theorem test_encode_program_words :
    encode (.pair 0) = 0x00000002#32 ∧ encode (.mov 1 (.din ⟨.w64, false⟩)) = 0x00340041#32 ∧
    encode (.sub 3 (.reg 2) (.reg 1)) = 0x000014D1#32 ∧ encode (.neg 4 (.reg 1)) = 0x00000312#32 ∧
    encode (.lt (.reg 0) (.reg 2)) = 0x0000201B#32 ∧ encode (.rdw (.reg 2)) = 0x00000405#32 ∧
    encode (.divmod 2 3 (.reg 1) (.din ⟨.w8, false⟩)) = 0x000982A6#32 ∧
    encode (.mul 4 (.reg 2) (.din ⟨.w8, false⟩)) = 0x00080520#32 ∧
    encode (.tof64 (.reg 3)) = 0x00000608#32 ∧ encode (.trunc ⟨.w8, true⟩ (.reg 2)) = 0x00400406#32 ∧
    encode (.shr 2 (.reg 0) (.din ⟨.w8, false⟩)) = 0x000800A9#32 := by decide

/-- The edges of the unassigned OP ranges (R52, R57). -/
theorem test_decode_unassigned_edges :
    ([0x00#32, 0x0A, 0x0F, 0x1F, 0x21, 0x23, 0x27, 0x2A, 0x3F]).all (decode · == .illegal .unassignedOp) = true ∧
    ([0x01#32, 0x09, 0x10, 0x1E, 0x20, 0x24, 0x25, 0x80E6, 0x28, 0x29]).all (decode · |>.toOption.isSome) = true := by
  decide

theorem test_decode_refuses_by_name :
    decode 0x00000000#32 = .illegal .unassignedOp ∧ decode 0x00800010#32 = .illegal .reservedBits ∧
    decode 0x80000010#32 = .illegal .reservedBits ∧ decode 0x00008066#32 = .illegal .sameDestinations ∧
    decodeTableWord 32 0x00000026 = none ∧ decodeTableWord 32 0x000022D0 = some (.add 3 (.reg 1) (.reg 2)) := by decide

/-! One command (95, Part 2). -/

theorem test_mov_promotes : (after (.mov 2 (.din ⟨.w8, true⟩)) (bench [] 0 0xAB)).reg 2 = ⟨o64, 0xFFFFFFFFFFFFFFAB⟩ := by decide

theorem test_mov_ignores_upper_din : (after (.mov 2 (.din ⟨.w32, false⟩)) (bench [] 7 0x12345678FFFFFFFF)).reg 2 = ⟨0, 0xFFFFFFFF⟩ := by
  decide

theorem test_pair : (after (.pair 0) (bench [] 1 2)).reg 0 = ⟨1, 2⟩ := by decide

theorem test_cvtf32_largest : (after (.cvtf32 1) (bench [] 0 0x7F7FFFFF)).reg 1 = ⟨0xFFFFFF0000000000, 0⟩ := by decide

theorem test_cvtf32_infinities :
    (after (.cvtf32 1) (bench [] 0 0x7F800000)).reg 1 = .ones ∧ (after (.cvtf32 1) (bench [] 0 0xFF800000)).reg 1 = .zero := by
  decide

theorem test_cvtf64_1e20 : (after (.cvtf64 0) (bench [] 0 0x4415AF1D78B58C40)).reg 0 = ⟨5, 0x6BC75E2D63100000⟩ := by decide

theorem test_cvtf64_saturates :
    (after (.cvtf64 0) (bench [] 0 0x47F0000000000000)).reg 0 = .ones ∧
    (after (.cvtf64 0) (bench [] 0 0x3FEFFFFFFFFFFFFF)).reg 0 = .zero := by decide

theorem test_rdw :
    (after (.rdw (.reg 0)) (ab ⟨1, 2⟩ .zero)).doutHi = 1 ∧ (after (.rdw (.reg 0)) (ab ⟨1, 2⟩ .zero)).doutLo = 2 := by decide

theorem test_trunc_s8 : (after (.trunc ⟨.w8, true⟩ (.reg 0)) (ab ⟨0xDEAD, 0xFFFFFF85⟩ .zero)).doutLo = 0xFFFFFFFFFFFFFF85 := by
  decide

theorem test_trunc_u8 : (after (.trunc ⟨.w8, false⟩ (.reg 0)) (ab ⟨0xDEAD, 0xFFFFFF85⟩ .zero)).doutLo = 0x85 := by decide

theorem test_tof32_ties :
    (after (.tof32 (.reg 0)) (ab ⟨0, 2 ^ 24 + 1⟩ .zero)).doutLo = 0x4B800000 ∧
    (after (.tof32 (.reg 0)) (ab ⟨0, 2 ^ 24 + 3⟩ .zero)).doutLo = 0x4B800002 := by decide

theorem test_tof32_overflow :
    (after (.tof32 (.reg 0)) (ab ⟨0xFFFFFF8000000000, 0⟩ .zero)).doutLo = 0x7F800000 ∧
    (after (.tof32 (.reg 0)) (ab ⟨0xFFFFFF7FFFFFFFFF, o64⟩ .zero)).doutLo = 0x7F7FFFFF := by decide

theorem test_tof64_ties :
    (after (.tof64 (.reg 0)) (ab ⟨0, 2 ^ 53 + 1⟩ .zero)).doutLo = 0x4340000000000000 ∧
    (after (.tof64 (.reg 0)) (ab ⟨0, 2 ^ 53 + 3⟩ .zero)).doutLo = 0x4340000000000002 := by decide

theorem test_tof64_of_ones : (after (.tof64 (.reg 0)) (ab .ones .zero)).doutLo = 0x47F0000000000000 := by decide

theorem test_tobool :
    (after (.tobool (.reg 0)) (ab ⟨1, 0⟩ .zero)).status.f = true ∧ (after (.tobool (.reg 0)) (ab .zero .zero)).status.f = false := by
  decide

theorem test_add_carries_across :
    (after (.add 2 (.reg 0) (.reg 1)) (ab ⟨0, 1⟩ ⟨0, o64⟩)).reg 2 = ⟨1, 0⟩ ∧
    (after (.add 2 (.reg 0) (.reg 1)) (ab ⟨0, 1⟩ ⟨0, o64⟩)).status.c = false := by decide

theorem test_add_wraps :
    (after (.add 0 (.reg 0) (.reg 1)) (ab .ones .one)).reg 0 = .zero ∧
    (after (.add 0 (.reg 0) (.reg 1)) (ab .ones .one)).status.c = true := by decide

theorem test_sub_borrows_across : (after (.sub 2 (.reg 0) (.reg 1)) (ab ⟨5, 0⟩ .one)).reg 2 = ⟨4, o64⟩ := by decide

theorem test_sub_wraps :
    (after (.sub 2 (.reg 0) (.reg 1)) (ab .zero .one)).reg 2 = .ones ∧
    (after (.sub 2 (.reg 0) (.reg 1)) (ab .zero .one)).status.c = true := by decide

theorem test_neg : (after (.neg 2 (.reg 0)) (ab ⟨0, 2⟩ .zero)).reg 2 = ⟨o64, 0xFFFFFFFFFFFFFFFE⟩ := by decide

theorem test_neg_of_zero_has_no_borrow : (after (.neg 2 (.reg 0)) (ab .zero .zero)).status.c = false := by decide

theorem test_inc :
    (after (.inc 2 (.reg 0)) (ab .ones .zero)).reg 2 = .zero ∧ (after (.inc 2 (.reg 0)) (ab .ones .zero)).status.c = true := by
  decide

theorem test_dec :
    (after (.dec 2 (.reg 0)) (ab ⟨1, 0⟩ .zero)).reg 2 = ⟨0, o64⟩ ∧ (after (.dec 2 (.reg 0)) (ab ⟨1, 0⟩ .zero)).status.c = false := by
  decide

theorem test_not : (after (.not 2 (.reg 0)) (ab ⟨0x00FF00FF00FF00FF, 0⟩ .zero)).reg 2 = ⟨0xFF00FF00FF00FF00, o64⟩ := by decide

theorem test_and : (after (.and 2 (.reg 0) (.reg 1)) (ab ⟨0xF0F0, 0xFF⟩ ⟨0xFF00, 0x0F⟩)).reg 2 = ⟨0xF000, 0x0F⟩ := by decide

theorem test_or : (after (.or 2 (.reg 0) (.reg 1)) (ab ⟨0xF0F0, 0xFF⟩ ⟨0xFF00, 0x0F⟩)).reg 2 = ⟨0xFFF0, 0xFF⟩ := by decide

theorem test_xor : (after (.xor 2 (.reg 0) (.reg 1)) (ab ⟨0xF0F0, 0xFF⟩ ⟨0xFF00, 0x0F⟩)).reg 2 = ⟨0x0FF0, 0xF0⟩ := by decide

/-- F after the six comparisons, in the order of 95's table. -/
def flags (a b : Wide) : List Bool :=
  ([.eq (.reg 0) (.reg 1), .ne (.reg 0) (.reg 1), .lt (.reg 0) (.reg 1), .le (.reg 0) (.reg 1), .gt (.reg 0) (.reg 1),
    .ge (.reg 0) (.reg 1)] : List Instr).map fun i => (after i (ab a b)).status.f

theorem test_compare_less : flags ⟨0, o64⟩ ⟨1, 0⟩ = [false, true, true, true, false, false] := by decide

theorem test_compare_equal : flags ⟨0, 5⟩ ⟨0, 5⟩ = [true, false, false, true, false, true] := by decide

theorem test_compare_unsigned : flags .ones .zero = [false, true, false, false, true, true] := by decide

theorem test_mul :
    (after (.mul 2 (.reg 0) (.reg 1)) (ab ⟨0x123456789ABCDEF0, 0xFEDCBA9876543210⟩ ⟨0, 0x0FEDCBA987654321⟩)).reg 2
      = ⟨0x3212849961EF529C, 0xCDEEC6CD7A44A410⟩ := by decide

theorem test_mul_drops_high : (after (.mul 2 (.reg 0) (.reg 1)) (ab .ones .ones)).reg 2 = .one := by decide

theorem test_div :
    (after (.div 2 (.reg 0) (.reg 1)) (ab ⟨0x123456789ABCDEF0, 0xFEDCBA9876543210⟩ ⟨0, 0x0FEDCBA987654321⟩)).reg 2
      = ⟨1, 0x249249249249238E⟩ := by decide

/-- A = (0, 7), B = 0 (95, P6): STATUS = 0x0000000A and W2 not written. -/
theorem test_div_by_zero :
    (after (.div 2 (.reg 0) (.reg 1)) (ab ⟨0, 7⟩ .zero)).statusWord = 0x0000000A#32 ∧
    (after (.div 2 (.reg 0) (.reg 1)) (ab ⟨0, 7⟩ .zero)).written 2 = false := by decide

theorem test_mod :
    (after (.mod 2 (.reg 0) (.reg 1)) (ab .ones ⟨0x8000000000000000, 1⟩)).reg 2 = ⟨0x7FFFFFFFFFFFFFFF, 0xFFFFFFFFFFFFFFFE⟩ := by decide

theorem test_divmod :
    (after (.divmod 2 3 (.reg 0) (.reg 1)) (ab ⟨1, 0⟩ ⟨0, 3⟩)).reg 2 = ⟨0, 0x5555555555555555⟩ ∧
    (after (.divmod 2 3 (.reg 0) (.reg 1)) (ab ⟨1, 0⟩ ⟨0, 3⟩)).reg 3 = .one := by decide

/-- A source that is also a destination (95, P3). -/
theorem test_divmod_in_place :
    (after (.divmod 0 2 (.reg 0) (.reg 1)) (ab ⟨0, 255⟩ ⟨0, 16⟩)).reg 0 = ⟨0, 15⟩ ∧
    (after (.divmod 0 2 (.reg 0) (.reg 1)) (ab ⟨0, 255⟩ ⟨0, 16⟩)).reg 2 = ⟨0, 15⟩ := by decide

theorem test_reference_divider :
    divmodRef .ones ⟨0x8000000000000000, 1⟩ = (.one, ⟨0x7FFFFFFFFFFFFFFF, 0xFFFFFFFFFFFFFFFE⟩) ∧
    divmodRef ⟨0, 255⟩ ⟨0, 16⟩ = (⟨0, 15⟩, ⟨0, 15⟩) ∧ divmodWord ⟨1, 0⟩ 3 = (⟨0, 0x5555555555555555⟩, .one) := by decide

/-- The operand of 95's shift table. -/
def sa : Wide := ⟨0x0123456789ABCDEF, 0xFEDCBA9876543210⟩

theorem test_shl :
    (after (.shl 2 (.reg 0) (.reg 1)) (ab sa ⟨0, 4⟩)).reg 2 = ⟨0x123456789ABCDEFF, 0xEDCBA98765432100⟩ ∧
    (after (.shl 2 (.reg 0) (.reg 1)) (ab sa ⟨0, 64⟩)).reg 2 = ⟨0xFEDCBA9876543210, 0⟩ := by decide

theorem test_shl_by_minus_one_faults :
    (after (.shl 2 (.reg 0) (.din ⟨.w8, true⟩)) (bench [(0, sa)] 0 0xFF)).statusWord = 0x0000000E#32 := by decide

theorem test_shr :
    (after (.shr 2 (.reg 0) (.reg 1)) (ab sa ⟨0, 63⟩)).reg 2 = ⟨0, 0x02468ACF13579BDF⟩ ∧
    (after (.shr 2 (.reg 0) (.reg 1)) (ab sa ⟨0, 65⟩)).reg 2 = ⟨0, 0x0091A2B3C4D5E6F7⟩ := by decide

theorem test_shr_by_two_to_64_faults :
    (after (.shr 2 (.reg 0) (.reg 1)) (ab sa ⟨1, 0⟩)).statusWord = 0x0000000E#32 := by decide

/-! One step. -/

/-- 95: the word 0 gives STATUS = 0x00000006 from a reset state. -/
theorem test_step_illegal_word :
    (nextOf (step (State.reset.withFetchWord 32 0))).map (·.statusWord) = some 0x00000006#32 := by decide

theorem test_step_runs_the_offered_word :
    (nextOf (step ((bench [] 1 2).withFetchWord 32 0x00000002))).map (·.reg 0) = some ⟨1, 2⟩ := by decide

/-- 95, P7: ADD W0, W6, W7 right after reset stops the strict machine and completes in the step. -/
theorem test_unwritten_read :
    strictStep (State.reset.withFetchWord 32 0x00007C10) = .fault .unwritten ∧
    (nextOf (step (State.reset.withFetchWord 32 0x00007C10))).map (·.written 0) = some true := ⟨rfl, by decide⟩

/-- A block after a SHIFT_RANGE fault, with ADD W3, W0, W0 offered (95, P5). -/
def stopped : State := (after (.shl 2 (.reg 0) (.reg 1)) (ab sa ⟨0, 128⟩)).offer 0x000000D0#32

theorem test_faulted_block_waits :
    (nextOf (step stopped)).map (fun t => (t.statusWord, t.written 3, t.pins.cmd)) = some (0x0000000E#32, false, 0x000000D0#32) := by
  decide

theorem test_reset_clears_the_fault :
    (clockEdge ⟨true, false, 0, 0, 0⟩ stopped).statusWord = 0#32 ∧ (clockEdge ⟨true, false, 0, 0, 0⟩ stopped).written 0 = false := by
  decide

theorem test_acceptance_sets_busy :
    (clockEdge ⟨false, true, 0x00000002#32, 1, 2⟩ State.reset).statusWord = 1#32 ∧
    (clockEdge ⟨false, true, 0x00000002#32, 1, 2⟩ State.reset).cmdReady = false := by decide

/-- DIV W2, W0, W1 on the edge before its commit edge, one divider iteration done. -/
def dividing : State :=
  { ab ⟨0, 255⟩ ⟨0, 16⟩ with
    status := ⟨true, false, .none, false, false⟩
    inflight := some ⟨0x000010A4#32, 0, 0, some ⟨0, 255⟩, some ⟨0, 16⟩, some (Divider.start ⟨0, 255⟩ ⟨0, 16⟩).iterate, 1⟩ }

theorem test_commit_edge :
    (clockEdge .idle dividing).reg 2 = ⟨0, 15⟩ ∧ (clockEdge .idle dividing).done = true ∧
    (clockEdge .idle dividing).statusWord = 0#32 := by decide

theorem test_assembler_text :
    (Instr.add 3 (.reg 1) (.din ⟨.w64, false⟩)).asm = "ADD W3, W1, DIN.u64" ∧
    (Instr.trunc ⟨.w32, true⟩ (.reg 5)).asm = "TRUNC.s32 W5" ∧
    (Instr.divmod 3 4 (.reg 1) (.reg 2)).asm = "DIVMOD W3, W4, W1, W2" := by decide

/-! Witnesses: a concrete state and operands that meet the hypotheses of each obligation, each clause of it. -/

theorem witness_DecodeOfEncode : (Instr.divmod 7 0 (.din ⟨.w64, true⟩) (.din ⟨.w64, true⟩)).wellFormed = true := by decide

/-- ADD with RE set: another word of the same command. -/
theorem witness_IgnoredFields :
    decode 0x000022D0#32 = .command (.add 3 (.reg 1) (.reg 2)) ∧ 0x0003A2D0#32 ≠ 0x000022D0#32 ∧
    0x0003A2D0#32 &&& (Instr.add 3 (.reg 1) (.reg 2)).usedMask = 0x000022D0#32 &&& (Instr.add 3 (.reg 1) (.reg 2)).usedMask := by
  decide

theorem witness_IllegalWords :
    ∃ s : State, s.cmdReady = true ∧ s.pins.cmdValid = true ∧ ∃ why, decode s.pins.cmd = .illegal why :=
  ⟨State.reset.offer 0x00800010#32, by decide, by decide, .reservedBits, by decide⟩

theorem witness_OperandsResolve :
    let s := (bench [(1, sa)] 0 0x80).offer 0x00480290#32
    decode s.pins.cmd = .command (.add 2 (.reg 1) (.din ⟨.w8, true⟩)) ∧
    (Instr.add 2 (.reg 1) (.din ⟨.w8, true⟩)).operandA = some (.reg 1) ∧
    (Instr.add 2 (.reg 1) (.din ⟨.w8, true⟩)).operandB = some (.din ⟨.w8, true⟩) ∧
    (Operand.din ⟨.w8, true⟩).value s = ⟨o64, 0xFFFFFFFFFFFFFF80⟩ ∧ (Operand.reg 1).value s = sa := by decide

theorem witness_StepRuns :
    ∃ (s t : State) (i : Instr), s.cmdReady = true ∧ s.pins.cmdValid = true ∧ decode s.pins.cmd = .command i ∧
      exec i s = .next t ∧ t.script = [.idle] :=
  ⟨{ (ab sa sa).offer 0x00001090#32 with script := [.idle] }, _, .add 2 (.reg 0) (.reg 1), by decide, by decide, by decide,
    exec_after _ _, by decide⟩

theorem witness_StepRuns_end :
    ∃ (s t : State) (i : Instr), s.cmdReady = true ∧ s.pins.cmdValid = true ∧ decode s.pins.cmd = .command i ∧
      exec i s = .next t ∧ t.script = [] :=
  ⟨(ab sa sa).offer 0x00001090#32, _, .add 2 (.reg 0) (.reg 1), by decide, by decide, by decide, exec_after _ _, by decide⟩

theorem witness_ResetEdge :
    (⟨true, true, 0x00000002#32, 0, 0⟩ : Pins).rst = true ∧ (⟨false, true, 0x00000002#32, 0, 0⟩ : Pins).rst = false ∧
    (⟨false, true, 0x00000002#32, 0, 0⟩ : Pins).cmdValid = true ∧ dividing.inflight.isSome = true := by decide

theorem inv_stopped : Inv stopped where
  busy := by decide
  fault := by decide
  stopped := fun _ => by decide
  done := fun h => absurd h (by decide)
  latched := fun f h => absurd h (by simp [show stopped.inflight = none by decide])

/-- The invariant holds of a block with a command in flight. -/
theorem inv_dividing : Inv dividing where
  busy := by decide
  fault := by decide
  stopped := fun h => absurd h (by decide)
  done := fun h => absurd h (by decide)
  latched := by
    intro f h
    cases h
    exact
      { left := by decide
        a := by decide
        b := by decide
        divider := by
          intro v hv
          cases hv
          exact ⟨by decide, ⟨0, 255⟩, ⟨0, 16⟩, 1, rfl, rfl, by decide, rfl⟩ }

theorem witness_EveryStepKeepsTheInvariant : Inv dividing ∧ ∃ t, step dividing = .next t ∧ t.reg 2 = ⟨0, 15⟩ :=
  ⟨inv_dividing, afterStep dividing, rfl, by decide⟩

theorem witness_EveryEdgeKeepsTheInvariant : Inv dividing ∧ Inv stopped := ⟨inv_dividing, inv_stopped⟩

/-- A block that has just committed: `done` is up, and the next edge takes it down. -/
theorem witness_DoneMarks : Inv dividing ∧ (clockEdge .idle dividing).done = true := ⟨inv_dividing, by decide⟩

theorem witness_FaultingCommand :
    ∃ (i : Instr) (s t : State), exec i s = .next t ∧ s.status.fault = false ∧ t.status.fault = true :=
  ⟨.div 2 (.reg 0) (.reg 1), ab sa .zero, _, exec_after _ _, by decide, by decide⟩

/-- DIV W2, W0, W1 by 0 offered to a ready block, and what the host may drive afterwards. -/
theorem witness_FaultingStep :
    ∃ s t : State, s.cmdReady = true ∧ s.pins.cmdValid = true ∧ step s = .next t ∧ t.status.fault = true ∧
      ∀ p ∈ [Pins.idle], p.rst = false :=
  ⟨(ab sa .zero).offer 0x000010A4#32, afterStep ((ab sa .zero).offer 0x000010A4#32), by decide, by decide, rfl, by decide,
    by decide⟩

/-- Each of the three causes: an ILLEGAL word, DIVMOD by 0, SHR by 128; and a count of 127, which is no cause. -/
theorem witness_OnlyThreeCauses :
    ([(ab sa .zero).offer 0x0000001F#32, (ab sa .zero).offer 0x000190A6#32, (ab sa ⟨0, 128⟩).offer 0x000010A9#32,
      (ab sa ⟨0, 127⟩).offer 0x000010A9#32] : List State).map
      (fun s => (s.cmdReady, s.pins.cmdValid, s.status.fcode, (afterStep s).statusWord.extractLsb' 2 4))
      = [(true, true, .none, 1#4), (true, true, .none, 2#4), (true, true, .none, 3#4), (true, true, .none, 0#4)] := by decide

theorem witness_OfferAfterFault :
    stopped.status.fault = true ∧ stopped.status.busy = false ∧ stopped.inflight = none ∧ stopped.pins.rst = false ∧
    stopped.pins.cmdValid = true ∧ ∀ p ∈ [(⟨false, true, 0x000000D0#32, 0, 0⟩ : Pins), .idle], p.rst = false := by decide

theorem witness_StrictStops :
    ∃ s : State, s.cmdReady = true ∧ s.pins.cmdValid = true ∧
      (∃ i, decode s.pins.cmd = .command i ∧ i.readsUnwritten s = true) ∧ strictStep s = .fault .unwritten :=
  ⟨State.reset.offer 0x00007C10#32, by decide, by decide, ⟨.add 0 (.reg 6) (.reg 7), by decide, by decide⟩, rfl⟩

theorem witness_StrictRuns : ∃ s t : State, strictStep s = .next t ∧ t.reg 0 = ⟨1, 2⟩ :=
  ⟨(bench [] 1 2).offer 0x00000002#32, _, rfl, by decide⟩

/-- PAIR W0 offered right after reset, and the same with another value in the unwritten W7. -/
def pairing (w7 : Wide) : State :=
  { (bench [] 1 2).offer 0x00000002#32 with regs := State.reset.regs.set 7 ⟨w7, false⟩ }

/-- Two states that differ in the unwritten W7, and a safe step of the first. -/
theorem witness_SafeRuns :
    ∃ s s' t : State, AgreeOnWritten s s' ∧ s'.reg 7 ≠ s.reg 7 ∧ SafeRun 1 s t :=
  ⟨pairing .zero, pairing .one, (nextOf (strictStep (pairing .zero))).getD State.reset,
    ⟨by decide, by decide, rfl, rfl, rfl, rfl, rfl, rfl, rfl⟩, by decide, _, rfl, rfl⟩

/-- A command for each clause: F, C, DOUT, RD and RE changed. -/
theorem witness_Columns :
    (∃ s t, exec (.tobool (.reg 0)) s = .next t ∧ t.status.f ≠ s.status.f) ∧
    (∃ s t, exec (.add 2 (.reg 0) (.reg 1)) s = .next t ∧ t.status.c ≠ s.status.c) ∧
    (∃ s t, exec (.rdw (.reg 0)) s = .next t ∧ t.doutLo ≠ s.doutLo) ∧
    (∃ s t, exec (.divmod 2 3 (.reg 0) (.reg 1)) s = .next t ∧ t.reg 2 ≠ s.reg 2 ∧ t.reg 3 ≠ s.reg 3) :=
  ⟨⟨ab sa sa, _, exec_after _ _, by decide⟩, ⟨ab .ones .one, _, exec_after _ _, by decide⟩,
    ⟨ab sa sa, _, exec_after _ _, by decide⟩, ⟨ab ⟨0, 255⟩ ⟨0, 16⟩, _, exec_after _ _, by decide, by decide⟩⟩

theorem witness_NoCommandReadsTheFlags : ∃ s t, exec (.add 2 (.reg 0) (.reg 1)) s = .next t ∧ t.status.c = true :=
  ⟨ab .ones .one, _, exec_after _ _, by decide⟩

/-- The clauses of TOF32 at their edges: 0, 1, the last value before the midpoint, the midpoint. -/
theorem witness_Tof32 :
    ((Operand.reg 0).value (ab .zero sa)).toNat = 0 ∧ ((Operand.reg 0).value (ab .one sa)).toNat = 1 ∧
    ((Operand.reg 0).value (ab ⟨0xFFFFFF7FFFFFFFFF, o64⟩ sa)).toNat = 2 ^ 128 - 2 ^ 103 - 1 ∧
    ((Operand.reg 0).value (ab ⟨0xFFFFFF8000000000, 0⟩ sa)).toNat = 2 ^ 128 - 2 ^ 103 := by decide

theorem witness_Tof64 :
    ((Operand.reg 0).value (ab .zero sa)).toNat = 0 ∧ ((Operand.reg 0).value (ab .one sa)).toNat = 1 ∧
    ((Operand.reg 0).value (ab .ones sa)).toNat = 2 ^ 128 - 1 := by decide

theorem witness_Narrowing : ∃ s t, exec (.mov 2 (.din ⟨.w16, true⟩)) s = .next t ∧ s.pins.dinLo = 0x8000 :=
  ⟨bench [] 0 0x8000, _, exec_after _ _, by decide⟩

/-- 95, S6: a = ONES_128 and b = 1. -/
theorem witness_AddThenSub :
    ∃ s t u, exec (.add 2 (.reg 0) (.reg 1)) s = .next t ∧ exec (.sub 3 (.reg 2) (.reg 1)) t = .next u ∧
      (Operand.reg 1).value t = (Operand.reg 1).value s :=
  ⟨ab .ones .one, _, _, exec_after _ _, exec_after _ _, by decide⟩

theorem witness_NotLaws : ∃ s t, exec (.not 2 (.reg 0)) s = .next t ∧ (Operand.reg 0).value t = (Operand.reg 0).value s :=
  ⟨ab sa sa, _, exec_after _ _, by decide⟩

theorem witness_CompareLaws :
    ∃ s e n l le g ge, exec (.eq (.reg 0) (.reg 1)) s = .next e ∧ exec (.ne (.reg 0) (.reg 1)) s = .next n ∧
      exec (.lt (.reg 0) (.reg 1)) s = .next l ∧ exec (.le (.reg 0) (.reg 1)) s = .next le ∧
      exec (.gt (.reg 0) (.reg 1)) s = .next g ∧ exec (.ge (.reg 0) (.reg 1)) s = .next ge :=
  ⟨ab sa sa, _, _, _, _, _, _, exec_after _ _, exec_after _ _, exec_after _ _, exec_after _ _, exec_after _ _, exec_after _ _⟩

/-- A divisor at each end of its range, and a solution of the contract. -/
theorem witness_DivisionContract :
    Wide.one.toNat ≠ 0 ∧ Wide.ones.toNat ≠ 0 ∧ sa.toNat = (Wide.zero).toNat * Wide.ones.toNat + sa.toNat ∧
    sa.toNat < Wide.ones.toNat := by decide

/-- A numerator equal to its divisor, and one below it. -/
theorem witness_ReferenceDivider :
    sa.toNat ≠ 0 ∧ sa.toNat ≤ sa.toNat ∧ (Wide.one.toNat ≤ Wide.ones.toNat) ∧ ¬(Wide.ones.toNat ≤ sa.toNat) := by decide

theorem witness_WordDivisor : (⟨0, 1⟩ : Wide).hi = 0 ∧ (⟨0, 1⟩ : Wide).lo ≠ 0 ∧ (⟨0, o64⟩ : Wide).lo ≠ 0 := by decide

/-- The clauses of DIV, MOD and DIVMOD: a divisor of 0 and of 1, destinations that differ and that are the same. -/
theorem witness_Divide :
    ((Operand.reg 1).value (ab sa .zero)).toNat = 0 ∧ ((Operand.reg 1).value (ab sa .one)).toNat ≠ 0 ∧
    (2 : Reg) ≠ 3 ∧ (3 : Reg) = 3 := by decide

theorem witness_DivisionIdentity :
    ∃ s tq tr td, ((Operand.reg 1).value s).toNat ≠ 0 ∧ (2 : Reg) ≠ 3 ∧ exec (.div 2 (.reg 0) (.reg 1)) s = .next tq ∧
      exec (.mod 2 (.reg 0) (.reg 1)) s = .next tr ∧ exec (.divmod 2 3 (.reg 0) (.reg 1)) s = .next td :=
  ⟨ab sa .one, _, _, _, by decide, by decide, exec_after _ _, exec_after _ _, exec_after _ _⟩

/-- Counts at the edge of the range, and a count above every word. -/
theorem witness_Shift :
    ((Operand.reg 1).value (ab sa ⟨0, 127⟩)).toNat < 128 ∧ 128 ≤ ((Operand.reg 1).value (ab sa ⟨0, 128⟩)).toNat ∧
    128 ≤ ((Operand.reg 1).value (ab sa ⟨1, 0⟩)).toNat := by decide

theorem witness_ShifterLaws : (0 : Nat) < 128 ∧ (127 : Nat) < 128 := by decide

/-- Acceptance of a legal word and of an ILLEGAL one, and a block that is busy. -/
theorem witness_Acceptance :
    ((ab sa sa).drive ⟨false, true, 0x00001090#32, 0, 0⟩).cmdReady = true ∧
    decode 0x00001090#32 = .command (.add 2 (.reg 0) (.reg 1)) ∧ decode 0#32 = .illegal .unassignedOp ∧
    dividing.status.busy = true ∧ dividing.inflight.isSome = true := by decide

/-- A busy block that keeps its command for another edge. -/
theorem witness_BusyKeepsTheCommand :
    ∃ (s : State) (p : Pins) (f g : InFlight), p.rst = false ∧ s.status.busy = true ∧ s.inflight = some f ∧
      (clockEdge p s).inflight = some g :=
  ⟨{ dividing with inflight := some ⟨0x00000002#32, 1, 2, none, none, none, 2⟩ }, .idle, _, _, by decide, by decide, rfl, rfl⟩

theorem witness_Latency : opField 0x000010A4#32 = 0x24#6 ∧
    ¬(opField 0x00001090#32 = 0x24#6 ∨ opField 0x00001090#32 = 0x25#6 ∨ opField 0x00001090#32 = 0x26#6) := by decide

/-- As many idle edges as the latency asks for, whatever it is. -/
theorem witness_ClockRun :
    ∃ (s : State) (p : Pins) (ps : List Pins), (s.drive p).cmdReady = true ∧ p.cmdValid = true ∧
      ps.length = (s.drive p).latch.left ∧ (∀ q ∈ ps, q.rst = false) ∧ 0 < ps.length := by
  let s : State := ab ⟨0, 255⟩ ⟨0, 16⟩
  let p : Pins := ⟨false, true, 0x000010A4#32, 0, 0⟩
  refine ⟨s, p, List.replicate (s.drive p).latch.left .idle, by decide, by decide, List.length_replicate, ?_, ?_⟩
  · intro q hq
    rw [List.eq_of_mem_replicate hq]
    rfl
  · rw [List.length_replicate]
    simp [State.latch, latency]

/-- A step from a BUSY state. -/
theorem witness_BusyStep : dividing.pins.rst = false ∧ dividing.status.busy = true ∧ step dividing = .next (afterStep dividing) :=
  ⟨by decide, by decide, rfl⟩

/-- A run that a fault ended, and one whose host has nothing left but idle cycles. -/
theorem witness_EndOfRun :
    stopped.runEnded = true ∧ stopped.pins.rst = false ∧ stopped.script = [] ∧
    ({ ab sa sa with script := [.idle, .idle] } : State).runEnded = true ∧
    ∀ p ∈ ({ ab sa sa with script := [.idle, .idle] } : State).script, p.rst = false := by decide

theorem witness_InputsAreParameters :
    ∃ s t : State, step s = .next t ∧ strictStep s = .next t ∧ t.reg 0 = ⟨1, 2⟩ :=
  ⟨pairing .zero, afterStep (pairing .zero), rfl, rfl, by decide⟩

/-- The immediates at the ends of their ranges. -/
theorem witness_Immediates :
    (2 ^ 64 - 1 : Nat) < 2 ^ 64 ∧ (-2 ^ 63 : Int) ≤ -2 ^ 63 ∧ (-2 ^ 63 : Int) < 2 ^ 63 ∧ (2 ^ 63 - 1 : Int) < 2 ^ 63 := by decide

/-- Two hosts with one command each, served 1, then 0. -/
theorem witness_Arbitration :
    arbitrate (fun n => 1 - n) 2 0 [[.idle], [⟨false, true, 0x00000002#32, 0, 0⟩]] = [⟨false, true, 0x00000002#32, 0, 0⟩, .idle] ∧
    ([[Pins.idle], [⟨false, true, 0x00000002#32, 0, 0⟩]] : List (List Pins))[1]? = some [⟨false, true, 0x00000002#32, 0, 0⟩] := by
  decide

end Sys2Proof.Tests
end

/-! SUPPORT and PROOFS. The state of the block (10_state.md): what its invariant rests on, and the statements about STATUS,
the flags and the inputs. -/

namespace Sys2Proof.Machine

/-! STATUS as a word (10_state.md R26). -/

/-- Settles O13: each bit of the concatenation is found in the field that holds it. -/
theorem statusWordLayout : Obligations.StatusWordLayout := by
  intro s
  refine ⟨?busy, ?fault, ?fcode, ?f, ?c, ?rest⟩
  case fcode | rest =>
    apply BitVec.eq_of_getLsbD_eq
    intro i hi
    simp only [State.statusWord, BitVec.getLsbD_extractLsb', BitVec.getLsbD_append]
    interval_cases i <;> simp
  all_goals
    simp only [State.statusWord, BitVec.getLsbD_append]
    simp

/-! Operands, and the effect of a command, as functions of the registers and the ports. -/

/-- An operand's value is read from the registers and DIN_LO alone (30_encoding.md R55). -/
theorem value_congr {s t : State} (hregs : t.regs = s.regs) (hdin : t.pins.dinLo = s.pins.dinLo) (o : Operand) :
    o.value t = o.value s := by
  cases o with
  | reg r => exact State.reg_congr s t hregs r
  | din ty => simp only [Operand.value, hdin]

/-- Whether an operand is unwritten is read from the registers alone (10_state.md R22). -/
theorem unwritten_congr {s t : State} (hregs : t.regs = s.regs) (o : Operand) : o.unwritten t = o.unwritten s := by
  cases o with
  | reg r => simp only [Operand.unwritten, State.written_congr s t hregs r]
  | din _ => rfl

/-- What a command commits in a state; an operand it does not read stands as 0. -/
def effectIn (i : Instr) (s : State) : Effect :=
  effectOf i s.pins.dinHi s.pins.dinLo ((i.operandA.map (·.value s)).getD .zero) ((i.operandB.map (·.value s)).getD .zero)

/-- A command is the commit of its effect; `exec_eq_effect`, with the operand values named. -/
theorem exec_eq_perform (i : Instr) (s : State) : exec i s = .next (s.perform (effectIn i s)) := by
  cases i <;> rfl

/-- The effect is computed from the registers and the ports: the flags, among others, are not read. -/
theorem effectIn_congr {s t : State} (hregs : t.regs = s.regs) (hpins : t.pins = s.pins) (i : Instr) :
    effectIn i t = effectIn i s := by
  have hvalue : ∀ o : Operand, o.value t = o.value s := value_congr hregs (by rw [hpins])
  simp only [effectIn, hvalue, hpins]

/-- The latch is filled from the registers and the ports (70_reset_and_hazards.md R181). -/
theorem latch_congr {s t : State} (hregs : t.regs = s.regs) (hpins : t.pins = s.pins) : t.latch = s.latch := by
  have hvalue : ∀ o : Operand, o.value t = o.value s := value_congr hregs (by rw [hpins])
  simp only [State.latch, hvalue, hpins]

/-- No command raises the code NONE (60_exceptions.md R160). -/
theorem effectOf_ne_fault_none (i : Instr) (dinHi dinLo : Word) (a b : Wide) :
    effectOf i dinHi dinLo a b ≠ .fault .none := by
  cases i
  case div => simp only [effectOf, effectDiv]; split <;> nofun
  case mod => simp only [effectOf, effectMod]; split <;> nofun
  case divmod =>
    simp only [effectOf, effectDivmod]
    split
    · nofun
    · split <;> nofun
  case shl => simp only [effectOf, effectShl]; split <;> nofun
  case shr => simp only [effectOf, effectShr]; split <;> nofun
  all_goals exact Effect.noConfusion

/-- A command in flight never commits the code NONE. -/
theorem InFlight.effect_ne_fault_none (f : InFlight) : f.effect ≠ .fault .none := by
  unfold InFlight.effect
  split
  · exact effectOf_ne_fault_none _ _ _ _ _
  · nofun

/-- A commit ends the command without a fault, or takes the fault of its effect. -/
theorem perform_ended_or_faulted (s : State) (e : Effect) :
    Ended s (s.perform e) ∨ ∃ code, e = .fault code ∧ Faulted s (s.perform e) code := by
  cases e with
  | wide rd v => exact .inl (perform_wide_wrote s rd v).ended
  | wideCarry rd v c => exact .inl (perform_wideCarry_wrote s rd v c).ended
  | widePair rd v re u => exact .inl (perform_widePair_wrote s rd v re u).ended
  | dout h l => exact .inl (perform_dout_wrote s h l).ended
  | flagF b => exact .inl (perform_flagF_wrote s b).ended
  | fault code => exact .inr ⟨code, rfl, raise_faulted s code⟩

/-! The flags steer nothing (10_state.md R24, R25). -/

/-- With other flags a commit leaves the same in everything but the flags. -/
theorem perform_setFlags (s : State) (f c : Bool) (e : Effect) :
    let u := ((s.setF f).setC c).perform e
    let t := s.perform e
    u.regs = t.regs ∧ DoutKept t u ∧ u.status.fault = t.status.fault ∧ u.status.fcode = t.status.fcode ∧
      u.status.busy = t.status.busy ∧ u.inflight = t.inflight ∧ u.done = t.done := by
  cases e <;> exact ⟨rfl, ⟨rfl, rfl⟩, rfl, rfl, rfl, rfl, rfl⟩

/-- A commit writes F alike whatever the flags were, or leaves it. -/
theorem perform_setFlags_f (s : State) (f c : Bool) (e : Effect) :
    (((s.setF f).setC c).perform e).status.f = (s.perform e).status.f ∨
    ((((s.setF f).setC c).perform e).status.f = f ∧ (s.perform e).status.f = s.status.f) := by
  cases e with
  | flagF b => exact .inl rfl
  | _ => exact .inr ⟨rfl, rfl⟩

/-- A commit writes C alike whatever the flags were, or leaves it. -/
theorem perform_setFlags_c (s : State) (f c : Bool) (e : Effect) :
    (((s.setF f).setC c).perform e).status.c = (s.perform e).status.c ∨
    ((((s.setF f).setC c).perform e).status.c = c ∧ (s.perform e).status.c = s.status.c) := by
  cases e with
  | wideCarry rd v b => exact .inl rfl
  | _ => exact .inr ⟨rfl, rfl⟩

/-- Settles O20: the effect is the same, and its commit hands the flags on or overwrites them. -/
theorem noCommandReadsTheFlags : Obligations.NoCommandReadsTheFlags := by
  intro i s t f c h
  rw [exec_eq_perform] at h
  cases h
  have heffect : effectIn i ((s.setF f).setC c) = effectIn i s := effectIn_congr rfl rfl i
  have hexec := exec_eq_perform i ((s.setF f).setC c)
  rw [heffect] at hexec
  obtain ⟨hregs, hdout, hfault, hfcode, hbusy, hinflight, hdone⟩ := perform_setFlags s f c (effectIn i s)
  exact ⟨_, hexec, hregs, hdout, hfault, hfcode, hbusy, hinflight, hdone,
    perform_setFlags_f s f c (effectIn i s), perform_setFlags_c s f c (effectIn i s)⟩

/-! The inputs are a parameter of the step (10_state.md R33): two states with the same block and the same ports differ in
the host's script alone. -/

section SameBlock

variable {s t : State} (hblock : t.toBlock = s.toBlock)
include hblock

theorem status_of_toBlock : t.status = s.status := congrArg Block.status hblock

theorem regs_of_toBlock : t.regs = s.regs := congrArg Block.regs hblock

theorem inflight_of_toBlock : t.inflight = s.inflight := congrArg Block.inflight hblock

theorem endCommand_toBlock_congr (done : Bool) : (t.endCommand done).toBlock = (s.endCommand done).toBlock := by
  simp only [State.endCommand, hblock]

theorem hold_toBlock_congr : t.hold.toBlock = s.hold.toBlock := by
  simp only [State.hold, hblock]

theorem commit_toBlock_congr : t.commit.toBlock = s.commit.toBlock := by
  unfold State.commit
  rw [inflight_of_toBlock hblock]
  cases s.inflight with
  | none => exact endCommand_toBlock_congr hblock false
  | some f => exact perform_toBlock_congr s t hblock f.effect

theorem busyEdge_toBlock_congr : t.busyEdge.toBlock = s.busyEdge.toBlock := by
  unfold State.busyEdge
  rw [inflight_of_toBlock hblock]
  cases s.inflight with
  | none => exact commit_toBlock_congr hblock
  | some f =>
    dsimp only
    split
    · exact commit_toBlock_congr hblock
    · simp only [hblock]

theorem accept_toBlock_congr (hpins : t.pins = s.pins) : t.accept.toBlock = s.accept.toBlock := by
  have hlatch : t.latch = s.latch := latch_congr (regs_of_toBlock hblock) hpins
  simp only [State.accept, hlatch, hblock]

theorem cmdReady_congr (hpins : t.pins = s.pins) : t.cmdReady = s.cmdReady := by
  simp only [State.cmdReady, hpins, status_of_toBlock hblock]

/-- A clock edge does to the block what the block and the ports at that edge say. -/
theorem clockEdge_toBlock_congr (p : Pins) : (clockEdge p t).toBlock = (clockEdge p s).toBlock := by
  have hdrive : (t.drive p).toBlock = (s.drive p).toBlock := hblock
  unfold clockEdge
  rw [cmdReady_congr hdrive rfl, status_of_toBlock hblock]
  split_ifs
  · rfl
  · exact busyEdge_toBlock_congr hdrive
  · exact accept_toBlock_congr hdrive rfl
  · exact hold_toBlock_congr hdrive

end SameBlock

/-- What running a command leaves of the block depends on the block and the ports alone. -/
def BlockDetermined (run : Instr → State → Result) : Prop :=
  ∀ (i : Instr) (s t : State), t.toBlock = s.toBlock → t.pins = s.pins → blockOf (run i t) = blockOf (run i s)

theorem exec_blockDetermined : BlockDetermined exec := by
  intro i s t hblock hpins
  rw [exec_eq_perform, exec_eq_perform, effectIn_congr (regs_of_toBlock hblock) hpins]
  exact congrArg Host.Outcome.next (perform_toBlock_congr s t hblock _)

/-- The strict machine also looks at the written marks, which are the block's. -/
theorem strictExec_blockDetermined : BlockDetermined strictExec := by
  intro i s t hblock hpins
  have hunwritten : ∀ o : Operand, o.unwritten t = o.unwritten s := unwritten_congr (regs_of_toBlock hblock)
  have hreads : i.readsUnwritten t = i.readsUnwritten s := by simp only [Instr.readsUnwritten, hunwritten]
  unfold strictExec
  rw [hreads]
  split
  · rfl
  · exact exec_blockDetermined i s t hblock hpins

/-- The host moving on leaves of an answer's block what the answer left. -/
theorem blockOf_thenHostNext (r : Result) : blockOf (thenHostNext r) = blockOf r := by
  cases r with
  | next t => exact congrArg Host.Outcome.next (State.hostNext_toBlock t)
  | fault _ => rfl
  | refused _ => rfl

/-- A step does to the block what the block and the ports say, when the commands it runs do. -/
theorem runStep_blockOf_congr {run : Instr → State → Result} (hrun : BlockDetermined run) {s t : State}
    (hblock : t.toBlock = s.toBlock) (hpins : t.pins = s.pins) : blockOf (runStep run t) = blockOf (runStep run s) := by
  unfold runStep acceptAndRun
  rw [hpins, status_of_toBlock hblock]
  split_ifs
  · simp only [blockOf, State.hostNext_toBlock]
    rfl
  · exact congrArg Host.Outcome.next (commit_toBlock_congr hblock)
  · simp only [blockOf, State.hostNext_toBlock, hold_toBlock_congr hblock]
  · exact congrArg Host.Outcome.next (hold_toBlock_congr hblock)
  · rw [blockOf_thenHostNext, blockOf_thenHostNext]
    cases decode s.pins.cmd with
    | command i => exact hrun i s t hblock hpins
    | illegal _ => exact congrArg Host.Outcome.next (perform_toBlock_congr s t hblock (.fault .illegal))

/-- The step of the block alone answers what is left of the block after the step of the machine. -/
theorem blockStep_of_runStep {run : Instr → State → Result} (hrun : BlockDetermined run) {s t : State}
    (h : runStep run s = .next t) : blockStep run s.pins s.toBlock = .next t.toBlock := by
  have hcongr := runStep_blockOf_congr hrun (s := s) (t := { s with script := [] }) rfl rfl
  rw [h] at hcongr
  exact hcongr

/-- Settles O57: the states `unitStep`, `blockStep` and `unitEdge` run in have the block and the ports of `s`, and an
empty script. -/
theorem inputsAreParametersOfTheStep : Obligations.InputsAreParametersOfTheStep :=
  ⟨fun _ _ h => blockStep_of_runStep exec_blockDetermined h,
    fun _ _ h => blockStep_of_runStep strictExec_blockDetermined h,
    fun s p => clockEdge_toBlock_congr (t := s) (s := { s with pins := p, script := [] }) rfl p⟩

/-! The divider in flight (10_state.md R30, 43_divide.md R141). -/

/-- At most 128 iterations are left when a division by a nonzero divisor starts (00_scope.md R5): the alignment is at most
the 127 leading zeros a nonzero divisor can have. -/
theorem Divider.start_left_le (n d : Wide) (hd : d.toNat ≠ 0) : (Divider.start n d).left ≤ Config.maxIterations := by
  have hclz : clz128 d ≤ 127 := by
    unfold clz128
    rw [if_neg hd]
    omega
  unfold Divider.start Config.maxIterations
  split
  · exact Nat.zero_le _
  · show clz128 d - clz128 n + 1 ≤ 128
    omega

/-- An iteration never leaves more iterations. -/
theorem Divider.iterate_left_le (v : Divider) : v.iterate.left ≤ v.left := by
  unfold Divider.iterate
  split
  · exact le_rfl
  · dsimp only
    split <;> exact Nat.sub_le _ _

/-- One iteration after `k` is `k + 1` iterations. -/
theorem Divider.iterate_run (k : Nat) (v : Divider) : (Divider.run k v).iterate = Divider.run (k + 1) v := by
  induction k generalizing v with
  | zero => rfl
  | succ k ih => exact ih v.iterate

/-- A divider is started on both operand values and on a nonzero divisor only (60_exceptions.md R163). -/
theorem startDivider_eq_some {cmd : BitVec 32} {a b : Option Wide} {v : Divider} (h : startDivider cmd a b = some v) :
    ∃ n d, a = some n ∧ b = some d ∧ d.toNat ≠ 0 ∧ v = Divider.start n d := by
  cases a with
  | none => cases h
  | some n =>
    cases b with
    | none => cases h
    | some d =>
      simp only [startDivider, Option.ite_none_right_eq_some, Bool.and_eq_true, bne_iff_ne, Option.some.injEq] at h
      obtain ⟨⟨-, hd⟩, rfl⟩ := h
      exact ⟨n, d, rfl, rfl, hd, rfl⟩

/-! The latched command (10_state.md R30, R31). -/

/-- Being latched speaks of the registers alone. -/
theorem InFlight.Latched.congr {f : InFlight} {s t : State} (hregs : t.regs = s.regs) (h : f.Latched s) :
    f.Latched t := by
  have hvalue : ∀ o : Operand,
      o.value (t.drive { t.pins with dinLo := f.dinLo }) = o.value (s.drive { s.pins with dinLo := f.dinLo }) :=
    value_congr hregs rfl
  obtain ⟨hleft, ha, hb, hdivider⟩ := h
  exact
    { left := hleft
      a := by simpa only [hvalue] using ha
      b := by simpa only [hvalue] using hb
      divider := hdivider }

/-- What the unit latches at acceptance is a latched command. -/
theorem State.latch_latched (s : State) : s.latch.Latched s where
  left := Nat.le_add_right 1 _
  a := rfl
  b := rfl
  divider v hv := by
    obtain ⟨n, d, ha, hb, hd, rfl⟩ := startDivider_eq_some hv
    exact ⟨Divider.start_left_le n d hd, n, d, 0, ha, hb, hd, rfl⟩

/-- A busy edge before the commit edge leaves the command a latched one. -/
theorem InFlight.Latched.tick {f : InFlight} {s : State} (h : f.Latched s) (hleft : 1 < f.left) : f.tick.Latched s where
  left := Nat.le_sub_one_of_lt hleft
  a := h.a
  b := h.b
  divider v hv := by
    obtain ⟨u, hu, rfl⟩ := Option.map_eq_some_iff.mp hv
    obtain ⟨hiter, n, d, k, ha, hb, hd, rfl⟩ := h.divider u hu
    exact ⟨(Divider.iterate_left_le _).trans hiter, n, d, k + 1, ha, hb, hd, Divider.iterate_run k _⟩

/-! The invariant of the block. -/

/-- The invariant speaks of the block alone. -/
theorem Inv.congr {s t : State} (hblock : t.toBlock = s.toBlock) (h : Inv s) : Inv t := by
  have hstatus := status_of_toBlock hblock
  have hinflight := inflight_of_toBlock hblock
  have hdone : t.done = s.done := congrArg Block.done hblock
  obtain ⟨busy, fault, stopped, done, latched⟩ := h
  rw [← hstatus, ← hinflight] at busy stopped
  rw [← hstatus] at fault
  rw [← hstatus, ← hinflight, ← hdone] at done
  rw [← hinflight] at latched
  exact ⟨busy, fault, stopped, done, fun f hf => (latched f hf).congr (regs_of_toBlock hblock)⟩

/-- With nothing in flight the invariant is what it says of STATUS and `done`. -/
theorem inv_of_idle {s : State} (hbusy : s.status.busy = false) (hinflight : s.inflight = none)
    (hfault : s.status.fault = true ↔ s.status.fcode ≠ .none) (hdone : s.done = true → s.status.fault = false) :
    Inv s where
  busy := by rw [hbusy, hinflight]; rfl
  fault := hfault
  stopped _ := hinflight
  done hd := ⟨hinflight, hdone hd⟩
  latched f hf := by rw [hinflight] at hf; cases hf

/-- A reset edge leads to a state of the invariant, from any state. -/
theorem inv_resetEdge (s : State) : Inv s.resetEdge :=
  inv_of_idle rfl rfl (by simp [Status.reset]) (fun _ => rfl)

/-- The invariant allows nothing in flight while BUSY is 0. -/
theorem Inv.inflight_none {s : State} (h : Inv s) (hbusy : s.status.busy = false) : s.inflight = none := by
  have hsome := h.busy
  rw [hbusy] at hsome
  exact Option.isNone_iff_eq_none.mp (Option.isSome_eq_false_iff.mp hsome.symm)

/-- Under the invariant BUSY stands for a latched command, and no fault stands beside it. -/
theorem Inv.inflight_some {s : State} (h : Inv s) (hbusy : s.status.busy = true) :
    ∃ f, s.inflight = some f ∧ f.Latched s ∧ s.status.fault = false := by
  have hsome := h.busy
  rw [hbusy] at hsome
  obtain ⟨f, hf⟩ := Option.isSome_iff_exists.mp hsome.symm
  refine ⟨f, hf, h.latched f hf, Bool.eq_false_iff.mpr fun hfault => ?_⟩
  rw [h.stopped hfault] at hf
  cases hf

/-- An edge on which nothing is accepted and nothing is in flight keeps the invariant. -/
theorem Inv.hold {s : State} (h : Inv s) (hbusy : s.status.busy = false) : Inv s.hold :=
  inv_of_idle hbusy (h.inflight_none hbusy) h.fault nofun

/-- A commit out of a state without a fault keeps the invariant, whatever it commits but the code NONE. -/
theorem Inv.perform {s : State} (h : Inv s) (hfault : s.status.fault = false) {e : Effect} (he : e ≠ .fault .none) :
    Inv (s.perform e) := by
  obtain hended | ⟨code, rfl, hfaulted⟩ := perform_ended_or_faulted s e
  · refine inv_of_idle hended.busy hended.inflight ?_ fun _ => hended.fault.trans hfault
    rw [hended.fault, hended.fcode]
    exact h.fault
  · refine inv_of_idle hfaulted.busy hfaulted.inflight ?_ fun hd => ?_
    · rw [hfaulted.fcode]
      exact iff_of_true hfaulted.fault fun hcode => he (congrArg Effect.fault hcode)
    · rw [hfaulted.done] at hd
      cases hd

/-- Acceptance keeps the invariant: what it puts in flight is latched. -/
theorem Inv.accept {s : State} (h : Inv s) (hfault : s.status.fault = false) : Inv s.accept where
  busy := rfl
  fault := h.fault
  stopped hf := absurd hf (Bool.eq_false_iff.mp hfault)
  done := nofun
  latched f hf := by
    cases hf
    exact s.latch_latched.congr (State.accept_regs s)

/-- The commit of the command in flight keeps the invariant. -/
theorem Inv.commit {s : State} (h : Inv s) (hbusy : s.status.busy = true) : Inv s.commit := by
  obtain ⟨f, hf, -, hfault⟩ := h.inflight_some hbusy
  rw [show s.commit = s.perform f.effect by rw [State.commit, hf]]
  exact h.perform hfault f.effect_ne_fault_none

/-- A busy edge keeps the invariant: it is the commit edge, or the command in flight comes one edge nearer to it. -/
theorem Inv.busyEdge {s : State} (h : Inv s) (hbusy : s.status.busy = true) : Inv s.busyEdge := by
  obtain ⟨f, hf, hlatched, hfault⟩ := h.inflight_some hbusy
  obtain ⟨-, hedge⟩ | ⟨hleft, hedge⟩ := busyEdge_cases s f hf
  · rw [hedge]
    exact h.perform hfault f.effect_ne_fault_none
  · rw [hedge]
    exact
      { busy := hbusy
        fault := h.fault
        stopped := fun hs => absurd hs (Bool.eq_false_iff.mp hfault)
        done := nofun
        latched := fun g hg => by
          cases hg
          refine (hlatched.tick hleft).congr ?_
          rfl }

/-- `cmd_ready` is up only without reset, BUSY and FAULT (10_state.md R29). -/
theorem State.cmdReady_iff (s : State) :
    s.cmdReady = true ↔ s.pins.rst = false ∧ s.status.busy = false ∧ s.status.fault = false := by
  simp [State.cmdReady, and_assoc]

/-- Every step from a state of the invariant leads to one, by the cases of a step. -/
theorem Inv.step_next {s : State} (h : Inv s) : ∃ t, step s = .next t ∧ Inv t := by
  obtain ⟨-, hnext⟩ | ⟨-, hbusy, hnext⟩ | ⟨-, hbusy, -, hnext⟩ | ⟨-, hbusy, -, -, hnext⟩ | ⟨hready, -, -, hnext⟩ |
    ⟨hready, -, i, -, hnext⟩ := runStep_cases exec s
  · exact ⟨_, hnext, (inv_resetEdge s).congr (State.hostNext_toBlock _)⟩
  · exact ⟨_, hnext, h.commit hbusy⟩
  · exact ⟨_, hnext, (h.hold hbusy).congr (State.hostNext_toBlock _)⟩
  · exact ⟨_, hnext, h.hold hbusy⟩
  · obtain ⟨-, -, hfault⟩ := s.cmdReady_iff.mp hready
    exact ⟨_, hnext, (h.perform (e := .fault .illegal) hfault nofun).congr (State.hostNext_toBlock _)⟩
  · obtain ⟨-, -, hfault⟩ := s.cmdReady_iff.mp hready
    rw [exec_eq_perform] at hnext
    exact ⟨_, hnext, (h.perform hfault (effectOf_ne_fault_none _ _ _ _ _)).congr (State.hostNext_toBlock _)⟩

/-- Settles O11: the next state is the one `Inv.step_next` speaks of. -/
theorem everyStepKeepsTheInvariant : Obligations.EveryStepKeepsTheInvariant := by
  intro s t h hstep
  obtain ⟨u, hnext, hinv⟩ := h.step_next
  rw [hnext] at hstep
  cases hstep
  exact hinv

/-- Settles O12, by the cases of a clock edge. -/
theorem everyEdgeKeepsTheInvariant : Obligations.EveryEdgeKeepsTheInvariant := by
  intro s p h
  have hdriven : Inv (s.drive p) := h.congr (State.drive_toBlock s p)
  obtain ⟨-, hedge⟩ | ⟨-, hbusy, hedge⟩ | ⟨hready, -, hedge⟩ | ⟨-, hbusy, -, hedge⟩ := clockEdge_cases p s
  all_goals rw [hedge]
  · exact inv_resetEdge _
  · exact hdriven.busyEdge hbusy
  · obtain ⟨-, -, hfault⟩ := (s.drive p).cmdReady_iff.mp hready
    exact hdriven.accept hfault
  · exact hdriven.hold hbusy

end Sys2Proof.Machine

/-! SUPPORT and PROOFS. The command port and its hosts (20_memory.md): what one grant takes from the hosts' queues, and the
interleaving that the grants make. -/

namespace Sys2Proof.Machine

/-- A grant takes the head of the granted host's queue, and leaves every other queue alone. -/
theorem exists_of_takeFrom_eq_some {k : Nat} {qs qs' : List (List Pins)} {p : Pins} (h : takeFrom k qs = some (p, qs')) :
    ∃ ps, qs[k]? = some (p :: ps) ∧ qs' = qs.set k ps := by
  induction k, qs using takeFrom.induct generalizing qs' with
  | case1 => simp [takeFrom] at h
  | case2 => simp [takeFrom] at h
  | case3 qs _ ps =>
    obtain ⟨rfl, rfl⟩ : _ = p ∧ ps :: qs = qs' := by simpa [takeFrom] using h
    exact ⟨ps, rfl, rfl⟩
  | case4 k q qs ih =>
    obtain ⟨rest, htake, rfl⟩ : ∃ rest, takeFrom k qs = some (p, rest) ∧ q :: rest = qs' := by
      simpa [takeFrom] using h
    obtain ⟨ps, hget, rfl⟩ := ih htake
    exact ⟨ps, hget, rfl⟩

/-- The tagged sequence is drawn from the hosts' queues `qs`: each tag is a host, and what is tagged with a host is the
first part of its queue, in order. -/
def DrawnFrom (qs : List (List Pins)) (tagged : List (Nat × Pins)) : Prop :=
  (∀ x ∈ tagged, x.1 < qs.length) ∧
  ∀ (k : Nat) (q : List Pins), qs[k]? = some q → (tagged.filter (·.1 = k)).map Prod.snd <+: q

theorem drawnFrom_nil (qs : List (List Pins)) : DrawnFrom qs [] := by
  simp [DrawnFrom]

/-- A command taken from the head of host `j`'s queue stands before whatever is drawn from the queues it leaves. -/
theorem DrawnFrom.cons {qs : List (List Pins)} {tagged : List (Nat × Pins)} {j : Nat} {p : Pins} {ps : List Pins}
    (hget : qs[j]? = some (p :: ps)) (h : DrawnFrom (qs.set j ps) tagged) : DrawnFrom qs ((j, p) :: tagged) := by
  obtain ⟨htags, hprefix⟩ := h
  have hj : j < qs.length := (List.getElem?_eq_some_iff.mp hget).1
  refine ⟨List.forall_mem_cons.mpr ⟨hj, by simpa using htags⟩, fun k q hk => ?_⟩
  by_cases hjk : j = k
  · subst hjk
    obtain rfl : p :: ps = q := Option.some.inj (hget.symm.trans hk)
    simpa using hprefix j ps (List.getElem?_set_self hj)
  · simpa [hjk] using hprefix k q ((List.getElem?_set_ne hjk).trans hk)

/-- Settles O55, by induction on the number of grants: a grant that finds a command puts it, tagged with its host, before
the interleaving of what is left. -/
theorem arbitrationInterleavesTheHosts : Obligations.ArbitrationInterleavesTheHosts := by
  intro grant fuel
  change ∀ n qs, ∃ tagged, tagged.map Prod.snd = arbitrate grant fuel n qs ∧ DrawnFrom qs tagged
  induction fuel with
  | zero => exact fun _ qs => ⟨[], rfl, drawnFrom_nil qs⟩
  | succ fuel ih =>
    intro n qs
    rw [arbitrate]
    split
    case h_1 => exact ih (n + 1) qs
    case h_2 p qs' htake =>
      obtain ⟨ps, hget, rfl⟩ := exists_of_takeFrom_eq_some htake
      obtain ⟨tagged, hmap, hdrawn⟩ := ih (n + 1) (qs.set (grant n) ps)
      exact ⟨(grant n, p) :: tagged, congrArg (p :: ·) hmap, hdrawn.cons hget⟩

end Sys2Proof.Machine

/-! SUPPORT and PROOFS. Encoding (30_encoding.md): which words say a command, what a command may write, and the statements
about decoding, operand resolution and the pseudo-instructions. -/

namespace Sys2Proof

open Machine

/-! The fields a command uses besides its operands A and B (30_encoding.md R56). -/

/-- RD, where the command uses it. -/
def Instr.destRD : Instr → Option Reg
  | .mov rd _ | .pair rd | .cvtf32 rd | .cvtf64 rd => some rd
  | .add rd _ _ | .sub rd _ _ | .neg rd _ | .inc rd _ | .dec rd _ => some rd
  | .not rd _ | .and rd _ _ | .or rd _ _ | .xor rd _ _ => some rd
  | .mul rd _ _ | .div rd _ _ | .mod rd _ _ | .divmod rd _ _ _ | .shl rd _ _ | .shr rd _ _ => some rd
  | _ => none

/-- RE, where the command uses it. -/
def Instr.destRE : Instr → Option Reg
  | .divmod _ re _ _ => some re
  | _ => none

/-- The type NW and NS give as the command's target (R53). -/
def Instr.target : Instr → Option NativeType
  | .trunc t _ => some t
  | _ => none

/-- A command is well-formed when its operands agree, its DIN operand has its target's type, and its destinations differ. -/
theorem Instr.wellFormed_iff (i : Instr) :
    i.wellFormed = true ↔
      (∀ a b, i.operandA = some a → i.operandB = some b → a.agree b = true) ∧
      (∀ t a, i.target = some t → i.operandA = some a → a.hasType t = true) ∧
      ∀ rd re, i.destRD = some rd → i.destRE = some re → rd ≠ re := by
  cases i
  case divmod => simp [wellFormed, destRD, destRE, target, operandA, operandB, and_comm]
  all_goals simp [wellFormed, destRD, destRE, target, operandA, operandB]

/-- The fields of `w` say the command `i`: RSV is 0, OP is the command's, and so is each field it uses (R56). -/
structure IsWordOf (w : BitVec 32) (i : Instr) : Prop where
  rsv : rsvField w = 0
  op : opField w = i.opcode
  rd : ∀ r, i.destRD = some r → rdField w = r
  re : ∀ r, i.destRE = some r → reField w = r
  type : ∀ t, i.target = some t → typeField w = t
  a : ∀ o, i.operandA = some o → operandAField w = o
  b : ∀ o, i.operandB = some o → operandBField w = o

/-! The opcode map (R52). -/

/-- The OP values with a command. -/
def assignedOps : List (BitVec 6) :=
  [0x01, 0x02, 0x03, 0x04, 0x05, 0x06, 0x07, 0x08, 0x09, 0x10, 0x11, 0x12, 0x13, 0x14, 0x15, 0x16, 0x17, 0x18, 0x19, 0x1A,
    0x1B, 0x1C, 0x1D, 0x1E, 0x20, 0x24, 0x25, 0x26, 0x28, 0x29]

/-- The illegal OP values, as R52 lists them. -/
theorem not_mem_assignedOps_iff (op : BitVec 6) :
    op ∉ assignedOps ↔
      op.toNat = 0x00 ∨ (0x0A ≤ op.toNat ∧ op.toNat ≤ 0x0F) ∨ op.toNat = 0x1F ∨
        (0x21 ≤ op.toNat ∧ op.toNat ≤ 0x23) ∨ op.toNat = 0x27 ∨ 0x2A ≤ op.toNat := by
  decide +revert

theorem Instr.opcode_mem_assignedOps (i : Instr) : i.opcode ∈ assignedOps := by
  cases i <;> simp [opcode, assignedOps]

theorem Instr.eq_divmod_of_opcode {i : Instr} (h : i.opcode = 0x26#6) : ∃ rd re a b, i = .divmod rd re a b := by
  cases i
  case divmod rd re a b => exact ⟨rd, re, a, b, rfl⟩
  all_goals simp [opcode] at h

/-! The operands of a word (R55). -/

/-- The operand the fields of a word give, by a select bit and a register field: A and B are two of these. -/
def operandAt (sel start : Nat) (w : BitVec 32) : Operand :=
  if w.getLsbD sel then .din (typeField w) else .reg (w.extractLsb' start 3).toFin

theorem operandAField_eq (w : BitVec 32) : operandAField w = operandAt 18 9 w := rfl

theorem operandBField_eq (w : BitVec 32) : operandBField w = operandAt 19 12 w := rfl

/-- The word's two operands share its one NW/NS pair (R53). -/
@[simp] theorem operandAField_agree (w : BitVec 32) : (operandAField w).agree (operandBField w) = true := by
  unfold operandAField operandBField
  split <;> split <;> simp [Operand.agree]

/-- A DIN operand A of the word has the type NW and NS give (R53). -/
@[simp] theorem operandAField_hasType (w : BitVec 32) : (operandAField w).hasType (typeField w) = true := by
  unfold operandAField
  split <;> simp [Operand.hasType]

/-- The value of a word's operand (R53, R55). -/
theorem value_operandAt (sel start : Nat) (w : BitVec 32) (s : State) :
    (operandAt sel start w).value s =
      if w.getLsbD sel then
        (if w.getLsbD 22 then promoteS (.ofCode (w.extractLsb' 20 2)) s.pins.dinLo
         else promoteU (.ofCode (w.extractLsb' 20 2)) s.pins.dinLo)
      else s.reg (w.extractLsb' start 3).toFin := by
  unfold operandAt
  split <;> rfl

/-- A word's operand is unwritten when it is a register nothing has written (10_state.md R22). -/
theorem unwritten_operandAt (sel start : Nat) (w : BitVec 32) (s : State) :
    (operandAt sel start w).unwritten s = true ↔
      w.getLsbD sel = false ∧ s.written (w.extractLsb' start 3).toFin = false := by
  unfold operandAt
  split <;> simp_all [Operand.unwritten]

/-- A command's operand, where it is known to be `x`, is unwritten when the command has it and `x` is unwritten. -/
theorem any_unwritten_iff {o : Option Operand} {x : Operand} (h : ∀ a, o = some a → x = a) (s : State) :
    o.any (·.unwritten s) = true ↔ o.isSome = true ∧ x.unwritten s = true := by
  cases o with
  | none => simp
  | some a => simp [h a rfl]

/-! Decoding (R57, R59). -/

/-- The opcode map, arm by arm: the command the fields say, an unassigned OP, or DIVMOD with RD = RE. -/
theorem decodeOp_cases (w : BitVec 32) (hrsv : rsvField w = 0) :
    (∃ i, decodeOp w = .command i ∧ i.wellFormed = true ∧ IsWordOf w i) ∨
    (decodeOp w = .illegal .unassignedOp ∧ opField w ∉ assignedOps) ∨
    (decodeOp w = .illegal .sameDestinations ∧ opField w = 0x26#6 ∧ rdField w = reField w) := by
  unfold decodeOp
  split
  case h_28 hop => -- the arm of DIVMOD
    unfold decodeDivmod
    split
    case isTrue hsame => exact .inr (.inr ⟨rfl, hop, hsame⟩)
    case isFalse hdiffer =>
      refine .inl ⟨_, rfl, by simp [Instr.wellFormed, hdiffer], ?_⟩
      constructor <;> simp [Instr.opcode, Instr.destRD, Instr.destRE, Instr.target, Instr.operandA, Instr.operandB, *]
  case h_31 => -- no arm
    exact .inr (.inl ⟨rfl, by simp_all [assignedOps]⟩)
  all_goals
    refine .inl ⟨_, rfl, by simp [Instr.wellFormed], ?_⟩
    constructor <;> simp [Instr.opcode, Instr.destRD, Instr.destRE, Instr.target, Instr.operandA, Instr.operandB, *]

/-- The opcode map gives a word whose fields say a well-formed command that command. -/
theorem IsWordOf.decodeOp_eq {w : BitVec 32} {i : Instr} (h : IsWordOf w i) (hwf : i.wellFormed = true) :
    decodeOp w = .command i := by
  obtain ⟨-, hop, hrd, hre, htype, ha, hb⟩ := h
  rw [decodeOp, hop]
  cases i
  case divmod rd re a b =>
    have hdiffer : rd ≠ re := by simp_all [Instr.wellFormed]
    simp_all [Instr.opcode, Instr.destRD, Instr.destRE, Instr.target, Instr.operandA, Instr.operandB, decodeDivmod]
  all_goals simp_all [Instr.opcode, Instr.destRD, Instr.destRE, Instr.target, Instr.operandA, Instr.operandB]

/-- The legal words: a word decodes to a command when the command is well-formed and the word's fields say it. -/
theorem decode_eq_command_iff (w : BitVec 32) (i : Instr) :
    decode w = .command i ↔ i.wellFormed = true ∧ IsWordOf w i := by
  constructor
  · intro h
    unfold decode at h
    split at h
    case isTrue hrsv =>
      obtain ⟨j, hj, hword⟩ | ⟨hill, -⟩ | ⟨hill, -⟩ := decodeOp_cases w hrsv
      · rw [hj] at h
        cases h
        exact hword
      all_goals
        rw [hill] at h
        cases h
    case isFalse => cases h
  · rintro ⟨hwf, hword⟩
    rw [decode, if_pos hword.rsv, hword.decodeOp_eq hwf]

/-- The illegal words (R57): a reserved bit, an unassigned OP, or DIVMOD with RD = RE. -/
theorem decode_illegal_iff (w : BitVec 32) :
    (∃ why, decode w = .illegal why) ↔
      opField w ∉ assignedOps ∨ rsvField w ≠ 0 ∨ (opField w = 0x26#6 ∧ rdField w = reField w) := by
  constructor
  · rintro ⟨why, h⟩
    unfold decode at h
    split at h
    case isTrue hrsv =>
      obtain ⟨i, hi, -⟩ | ⟨-, hop⟩ | ⟨-, hsame⟩ := decodeOp_cases w hrsv
      · rw [hi] at h
        cases h
      · exact .inl hop
      · exact .inr (.inr hsame)
    case isFalse hrsv => exact .inr (.inl hrsv)
  · intro h
    cases hdecode : decode w with
    | illegal why => exact ⟨why, rfl⟩
    | command i =>
      obtain ⟨hwf, hword⟩ := (decode_eq_command_iff w i).mp hdecode
      obtain hop | hrsv | ⟨hop, hsame⟩ := h
      · exact absurd (hword.op ▸ i.opcode_mem_assignedOps) hop
      · exact absurd hword.rsv hrsv
      · obtain ⟨rd, re, a, b, rfl⟩ := Instr.eq_divmod_of_opcode (hword.op.symm.trans hop)
        obtain ⟨-, -, hdiffer⟩ := (Instr.wellFormed_iff _).mp hwf
        refine absurd ?_ (hdiffer rd re rfl rfl)
        rw [← hword.rd rd rfl, ← hword.re re rfl, hsame]

/-! The encoder (R61). -/

/-- The type the encoding of a command carries: its target, else the type of a DIN operand. -/
def Instr.emittedType (i : Instr) : NativeType :=
  i.target.getD (i.operandA.elim id (fun a t => a.typeOr t) (i.operandB.elim .emitted (Operand.typeOr .emitted)))

/-- Every encoding is one word of CMD32, with the fields the command does not use 0 (R50, R61). -/
theorem encode_eq_cmdWord (i : Instr) :
    encode i = cmdWord i.opcode (i.destRD.getD 0) (i.operandA.elim 0 Operand.index) (i.operandB.elim 0 Operand.index)
      (i.destRE.getD 0) (i.operandA.elim false Operand.sel) (i.operandB.elim false Operand.sel) i.emittedType := by
  cases i <;> rfl

/-- The select bit, the register and the type emitted for operand A give it back. -/
theorem operandAField_cmdWord {a : Operand} {t : NativeType} (ht : a.typeOr t = t) (op : BitVec 6) (rd rb re : Reg)
    (y : Bool) : operandAField (cmdWord op rd a.index rb re a.sel y t) = a := by
  cases a with
  | reg r => simp [operandAField, Operand.sel, Operand.index]
  | din t' => simp [operandAField, Operand.sel, ← ht, Operand.typeOr]

/-- The select bit, the register and the type emitted for operand B give it back. -/
theorem operandBField_cmdWord {b : Operand} {t : NativeType} (ht : b.typeOr t = t) (op : BitVec 6) (rd ra re : Reg)
    (x : Bool) : operandBField (cmdWord op rd ra b.index re x b.sel t) = b := by
  cases b with
  | reg r => simp [operandBField, Operand.sel, Operand.index]
  | din t' => simp [operandBField, Operand.sel, ← ht, Operand.typeOr]

/-- The emitted type is that of a DIN operand A, which has the target's type if there is a target. -/
theorem Instr.emittedType_operandA {i : Instr} (hwf : i.wellFormed = true) {a : Operand} (ha : i.operandA = some a) :
    a.typeOr i.emittedType = i.emittedType := by
  obtain ⟨-, htarget, -⟩ := i.wellFormed_iff.mp hwf
  cases a with
  | reg r => rfl
  | din t =>
    rw [emittedType, ha]
    cases ht : i.target with
    | none => rfl
    | some t' => exact (beq_iff_eq.mp (htarget t' _ ht ha)).symm

theorem Instr.target_none_of_operandB {i : Instr} {b : Operand} (hb : i.operandB = some b) : i.target = none := by
  cases i
  case trunc => cases hb
  all_goals rfl

/-- The emitted type is that of a DIN operand B, with which a DIN operand A agrees. -/
theorem Instr.emittedType_operandB {i : Instr} (hwf : i.wellFormed = true) {b : Operand} (hb : i.operandB = some b) :
    b.typeOr i.emittedType = i.emittedType := by
  obtain ⟨hagree, -, -⟩ := i.wellFormed_iff.mp hwf
  cases b with
  | reg r => rfl
  | din t =>
    rw [emittedType, Instr.target_none_of_operandB hb, hb]
    cases ha : i.operandA with
    | none => rfl
    | some a =>
      cases a with
      | reg r => rfl
      | din t' => exact (beq_iff_eq.mp (hagree _ _ ha hb)).symm

/-- The fields of a well-formed command's encoding say that command. -/
theorem isWordOf_encode {i : Instr} (hwf : i.wellFormed = true) : IsWordOf (encode i) i := by
  rw [encode_eq_cmdWord]
  exact
    { rsv := rsvField_cmdWord ..
      op := opField_cmdWord ..
      rd := fun r hr => by simp [hr]
      re := fun r hr => by simp [hr]
      type := fun t ht => by simp [Instr.emittedType, ht]
      a := fun a ha => by
        rw [ha]
        exact operandAField_cmdWord (Instr.emittedType_operandA hwf ha) ..
      b := fun b hb => by
        rw [hb]
        exact operandBField_cmdWord (Instr.emittedType_operandB hwf hb) .. }

/-- Settles O1: the encoding is a word of the command, and the decoder takes such words to it. -/
theorem decodeOfEncodeGivesTheCommand : Obligations.DecodeOfEncodeGivesTheCommand :=
  fun i hwf => (decode_eq_command_iff _ i).mpr ⟨hwf, isWordOf_encode hwf⟩

/-! The bits a command uses (R56). -/

/-- Words agree under a mask when each bit the mask holds is the same. -/
theorem and_eq_and_iff (x y m : BitVec 32) :
    x &&& m = y &&& m ↔ ∀ i, m.getLsbD i = true → x.getLsbD i = y.getLsbD i := by
  constructor
  · intro h i hm
    have hbit := congrArg (·.getLsbD i) h
    simpa [hm] using hbit
  · intro h
    apply BitVec.eq_of_getLsbD_eq
    intro i _
    cases hm : m.getLsbD i with
    | false => simp [hm]
    | true => simp [hm, h i hm]

/-- Words agree under two masks together when they agree under each. -/
theorem and_or_eq_and_or_iff (x y m m' : BitVec 32) :
    x &&& (m ||| m') = y &&& (m ||| m') ↔ x &&& m = y &&& m ∧ x &&& m' = y &&& m' := by
  simp only [and_eq_and_iff, BitVec.getLsbD_or, Bool.or_eq_true, or_imp, forall_and]

/-- The mask of the field of `len` bits from bit `start`. -/
def fieldMask (start len : Nat) : BitVec 32 := (BitVec.allOnes len).setWidth 32 <<< start

theorem getLsbD_fieldMask (start len i : Nat) :
    (fieldMask start len).getLsbD i = true ↔ i < 32 ∧ start ≤ i ∧ i < start + len := by
  simp [fieldMask]
  omega

/-- Words agree under a field's mask when the field is the same. -/
theorem and_fieldMask_eq_iff {start len : Nat} (h : start + len ≤ 32) (x y : BitVec 32) :
    x &&& fieldMask start len = y &&& fieldMask start len ↔ x.extractLsb' start len = y.extractLsb' start len := by
  simp only [and_eq_and_iff, getLsbD_fieldMask]
  constructor
  · intro hbits
    apply BitVec.eq_of_getLsbD_eq
    intro i hi
    simpa [hi] using hbits (start + i) (by omega)
  · intro hfield i ⟨_, hge, hlt⟩
    have hbit := congrArg (·.getLsbD (i - start)) hfield
    simpa [show i - start < len by omega, Nat.add_sub_cancel' hge] using hbit

/-- Words agree under the mask of one bit when that bit is the same. -/
theorem and_bitMask_eq_iff {n : Nat} (h : n < 32) (x y : BitVec 32) :
    x &&& fieldMask n 1 = y &&& fieldMask n 1 ↔ x.getLsbD n = y.getLsbD n := by
  have hbit : ∀ i, i < 32 ∧ n ≤ i ∧ i < n + 1 ↔ i = n := by omega
  simp only [and_eq_and_iff, getLsbD_fieldMask, hbit, forall_eq]

theorem and_maskBase_eq_iff (x y : BitVec 32) :
    x &&& maskBase = y &&& maskBase ↔ opField x = opField y ∧ rsvField x = rsvField y := by
  rw [show maskBase = fieldMask 0 6 ||| fieldMask 23 9 by decide, and_or_eq_and_or_iff, and_fieldMask_eq_iff (by decide),
    and_fieldMask_eq_iff (by decide)]
  rfl

theorem and_maskRD_eq_iff (x y : BitVec 32) : x &&& maskRD = y &&& maskRD ↔ rdField x = rdField y := by
  rw [show maskRD = fieldMask 6 3 by decide, and_fieldMask_eq_iff (by decide)]
  exact BitVec.toFin_inj.symm

theorem and_maskRE_eq_iff (x y : BitVec 32) : x &&& maskRE = y &&& maskRE ↔ reField x = reField y := by
  rw [show maskRE = fieldMask 15 3 by decide, and_fieldMask_eq_iff (by decide)]
  exact BitVec.toFin_inj.symm

theorem NativeWidth.ofCode_inj {c d : BitVec 2} : NativeWidth.ofCode c = NativeWidth.ofCode d ↔ c = d := by
  decide +revert

theorem and_maskType_eq_iff (x y : BitVec 32) : x &&& maskType = y &&& maskType ↔ typeField x = typeField y := by
  rw [show maskType = fieldMask 20 2 ||| fieldMask 22 1 by decide, and_or_eq_and_or_iff,
    and_fieldMask_eq_iff (by decide), and_bitMask_eq_iff (by decide), typeField, typeField, NativeType.mk.injEq,
    NativeWidth.ofCode_inj]
  rfl

/-- The mask `maskA` and `maskB` take for an operand of `w`: its select bit, and NW and NS or its register field by that. -/
def operandMask (sel start : Nat) (w : BitVec 32) : BitVec 32 :=
  fieldMask sel 1 ||| if w.getLsbD sel then maskType else fieldMask start 3

theorem maskA_operandAField (w : BitVec 32) : maskA (operandAField w) = operandMask 18 9 w := by
  rw [operandAField_eq, operandAt, operandMask]
  split <;> rfl

theorem maskB_operandBField (w : BitVec 32) : maskB (operandBField w) = operandMask 19 12 w := by
  rw [operandBField_eq, operandAt, operandMask]
  split <;> rfl

/-- Two operands chosen so are the same when the select bit is, and the type or the register with it. -/
theorem selected_operand_eq_iff {p q : Bool} {t u : NativeType} {r v : Reg} :
    (if p then Operand.din t else .reg r) = (if q then Operand.din u else .reg v) ↔
      p = q ∧ if q then t = u else r = v := by
  cases p <;> cases q <;> simp

/-- Words agree under the mask of one word's operand when the operand is the same. -/
theorem and_operandMask_eq_iff {sel start : Nat} (hsel : sel < 32) (hstart : start + 3 ≤ 32) (x y : BitVec 32) :
    x &&& operandMask sel start y = y &&& operandMask sel start y ↔ operandAt sel start x = operandAt sel start y := by
  rw [operandMask, and_or_eq_and_or_iff, and_bitMask_eq_iff hsel, operandAt, operandAt, selected_operand_eq_iff]
  refine and_congr_right fun _ => ?_
  split
  · exact and_maskType_eq_iff x y
  · rw [and_fieldMask_eq_iff hstart]
    exact BitVec.toFin_inj.symm

theorem and_maskA_eq_iff (x y : BitVec 32) :
    x &&& maskA (operandAField y) = y &&& maskA (operandAField y) ↔ operandAField x = operandAField y := by
  rw [maskA_operandAField]
  exact and_operandMask_eq_iff (by decide) (by decide) x y

theorem and_maskB_eq_iff (x y : BitVec 32) :
    x &&& maskB (operandBField y) = y &&& maskB (operandBField y) ↔ operandBField x = operandBField y := by
  rw [maskB_operandBField]
  exact and_operandMask_eq_iff (by decide) (by decide) x y

/-- A command's mask is OP and RSV with the mask of each field it uses. -/
theorem Instr.usedMask_eq (i : Instr) :
    i.usedMask = maskBase ||| i.destRD.elim 0 (fun _ => maskRD) ||| i.destRE.elim 0 (fun _ => maskRE) |||
      i.target.elim 0 (fun _ => maskType) ||| i.operandA.elim 0 maskA ||| i.operandB.elim 0 maskB := by
  cases i <;> simp [usedMask, destRD, destRE, target, operandA, operandB]

/-- Words agree under the mask of a field a command may have when they do where it has the field. -/
theorem and_elim_mask_eq_iff {α : Type} (o : Option α) (m : α → BitVec 32) (x y : BitVec 32) :
    x &&& o.elim 0 m = y &&& o.elim 0 m ↔ ∀ v, o = some v → x &&& m v = y &&& m v := by
  cases o <;> simp

/-- The words that agree with a word of the command on the bits it uses are the words of that command. -/
theorem IsWordOf.and_usedMask_eq_iff {w : BitVec 32} {i : Instr} (h : IsWordOf w i) (w' : BitVec 32) :
    w' &&& i.usedMask = w &&& i.usedMask ↔ IsWordOf w' i := by
  obtain ⟨hrsv, hop, hrd, hre, htype, ha, hb⟩ := h
  simp only [Instr.usedMask_eq, and_or_eq_and_or_iff, and_elim_mask_eq_iff, and_maskBase_eq_iff, and_maskRD_eq_iff,
    and_maskRE_eq_iff, and_maskType_eq_iff]
  constructor
  · rintro ⟨⟨⟨⟨⟨⟨hop', hrsv'⟩, hrd'⟩, hre'⟩, htype'⟩, ha'⟩, hb'⟩
    exact
      { rsv := hrsv'.trans hrsv
        op := hop'.trans hop
        rd := fun r hr => (hrd' r hr).trans (hrd r hr)
        re := fun r hr => (hre' r hr).trans (hre r hr)
        type := fun t ht => (htype' t ht).trans (htype t ht)
        a := fun o ho => by
          obtain rfl := ha o ho
          exact (and_maskA_eq_iff w' w).mp (ha' _ ho)
        b := fun o ho => by
          obtain rfl := hb o ho
          exact (and_maskB_eq_iff w' w).mp (hb' _ ho) }
  · rintro ⟨hrsv', hop', hrd', hre', htype', ha', hb'⟩
    refine ⟨⟨⟨⟨⟨⟨hop'.trans hop.symm, hrsv'.trans hrsv.symm⟩, fun r hr => (hrd' r hr).trans (hrd r hr).symm⟩,
      fun r hr => (hre' r hr).trans (hre r hr).symm⟩, fun t ht => (htype' t ht).trans (htype t ht).symm⟩, ?_⟩, ?_⟩
    · intro o ho
      obtain rfl := ha o ho
      exact (and_maskA_eq_iff w' w).mpr (ha' _ ho)
    · intro o ho
      obtain rfl := hb o ho
      exact (and_maskB_eq_iff w' w).mpr (hb' _ ho)

/-- Settles O2: the words that agree with `w` on the bits `i` uses are the words of `i`, and the encoding is one. -/
theorem ignoredFieldsChangeNothing : Obligations.IgnoredFieldsChangeNothing := by
  intro w i hdecode
  obtain ⟨hwf, hword⟩ := (decode_eq_command_iff w i).mp hdecode
  exact ⟨hwf, (hword.and_usedMask_eq_iff _).mpr (isWordOf_encode hwf), fun w' hagree =>
    (decode_eq_command_iff w' i).mpr ⟨hwf, (hword.and_usedMask_eq_iff w').mp hagree⟩⟩

/-- An accepted illegal word commits the fault ILLEGAL, whatever runs the commands (60_exceptions.md R162). -/
theorem runStep_illegal (run : Instr → State → Result) {s : State} (hready : s.cmdReady = true)
    (hvalid : s.pins.cmdValid = true) {why : Illegal} (hdecode : decode s.pins.cmd = .illegal why) :
    runStep run s = .next (s.raise .illegal).hostNext := by
  obtain ⟨hrst, hbusy, hfault⟩ := s.cmdReady_iff.mp hready
  simp [runStep, acceptAndRun, thenHostNext, hrst, hbusy, hvalid, hfault, hdecode]

/-- Settles O3: the illegal words by OP value, RSV and RD = RE; the step and the strict step raise the same fault. -/
theorem illegalWordsCommitIllegal : Obligations.IllegalWordsCommitIllegal := by
  refine ⟨fun w => ?_, fun s hready hvalid ⟨why, hdecode⟩ => ?_⟩
  · rw [decode_illegal_iff, not_mem_assignedOps_iff, rdField, reField, BitVec.toFin_inj,
      ← BitVec.toNat_inj (x := opField w)]
    rfl
  · have hstep : ∀ run, runStep run s = .next (s.raise .illegal).hostNext :=
      fun run => runStep_illegal run hready hvalid hdecode
    exact ⟨s.raise .illegal, hstep exec, raise_faulted s .illegal, (hstep strictExec).trans (hstep exec).symm⟩

/-- Settles O5: the operands the command reads are the word's. -/
theorem operandsResolveFromTheWord : Obligations.OperandsResolveFromTheWord := by
  refine ⟨by decide, fun s i hdecode => ?_⟩
  obtain ⟨-, hword⟩ := (decode_eq_command_iff _ i).mp hdecode
  refine ⟨fun a ha => ?_, fun b hb => ?_, ?_⟩
  · rw [← hword.a a ha]
    exact value_operandAt 18 9 _ s
  · rw [← hword.b b hb]
    exact value_operandAt 19 12 _ s
  · rw [strictExec_unwritten_iff, Instr.readsUnwritten, Bool.or_eq_true, any_unwritten_iff hword.a,
      any_unwritten_iff hword.b, operandAField_eq, operandBField_eq, unwritten_operandAt, unwritten_operandAt]

/-! The writes column (R52). -/

/-- The effect writes only what the row of `i` in R52 lists. -/
def InColumn (i : Instr) : Effect → Prop
  | .wide rd _ => i.destRD = some rd
  | .wideCarry rd _ _ => i.destRD = some rd ∧ i.opcode ∈ [0x10#6, 0x11#6, 0x12#6, 0x13#6, 0x14#6]
  | .widePair rd _ re _ => i.destRD = some rd ∧ i.destRE = some re
  | .dout _ _ => i.opcode ∈ [0x05#6, 0x06#6, 0x07#6, 0x08#6]
  | .flagF _ => i.opcode ∈ [0x09#6, 0x19#6, 0x1A#6, 0x1B#6, 0x1C#6, 0x1D#6, 0x1E#6]
  | .fault _ => True

/-- A command commits no more than its row lists: a fault, or the one shape of effect that is its own. -/
theorem effectOf_inColumn (i : Instr) (dinHi dinLo : Word) (a b : Wide) : InColumn i (effectOf i dinHi dinLo a b) := by
  cases i
  case div | mod | shl | shr =>
    simp only [effectOf, effectDiv, effectMod, effectShl, effectShr]
    split <;> simp [InColumn, Instr.destRD]
  case divmod =>
    simp only [effectOf, effectDivmod]
    split
    · trivial
    · split <;> simp [InColumn, Instr.destRD, Instr.destRE]
  case add | sub | neg | inc | dec => exact ⟨rfl, by simp [Instr.opcode]⟩
  case rdw | trunc | tof32 | tof64 =>
    change Instr.opcode _ ∈ [0x05#6, 0x06#6, 0x07#6, 0x08#6]
    simp [Instr.opcode]
  case tobool | eq | ne | lt | le | gt | ge =>
    change Instr.opcode _ ∈ [0x09#6, 0x19#6, 0x1A#6, 0x1B#6, 0x1C#6, 0x1D#6, 0x1E#6]
    simp [Instr.opcode]
  all_goals rfl

/-! What a commit changes tells the shape of its effect. -/

section Commit

variable {s : State} {e : Effect}

theorem eq_flagF_of_perform_f_ne (h : (s.perform e).status.f ≠ s.status.f) : ∃ b, e = .flagF b := by
  cases e with
  | flagF b => exact ⟨b, rfl⟩
  | _ => exact absurd rfl h

theorem eq_wideCarry_of_perform_c_ne (h : (s.perform e).status.c ≠ s.status.c) : ∃ rd v c, e = .wideCarry rd v c := by
  cases e with
  | wideCarry rd v c => exact ⟨rd, v, c, rfl⟩
  | _ => exact absurd rfl h

theorem eq_dout_of_not_doutKept (h : ¬ DoutKept s (s.perform e)) : ∃ hi lo, e = .dout hi lo := by
  cases e with
  | dout hi lo => exact ⟨hi, lo, rfl⟩
  | _ => exact absurd ⟨rfl, rfl⟩ h

/-- A wide register changes only as RD or RE of the command: every register outside what was written is kept. -/
theorem destination_of_perform_reg_ne {i : Instr} (he : InColumn i e) {r : Reg}
    (h : (s.perform e).reg r ≠ s.reg r ∨ (s.perform e).written r ≠ s.written r) :
    i.destRD = some r ∨ i.destRE = some r := by
  have hmem : ∀ {ds}, RegsKept s (s.perform e) ds → r ∈ ds := by
    intro ds hkept
    by_contra hr
    obtain ⟨hreg, hwritten⟩ := hkept r hr
    exact h.elim (· hreg) (· hwritten)
  cases e with
  | wide rd v =>
    obtain rfl : r = rd := by simpa using hmem (perform_wide_wrote s rd v).others
    exact .inl he
  | wideCarry rd v c =>
    obtain rfl : r = rd := by simpa using hmem (perform_wideCarry_wrote s rd v c).others
    exact .inl he.1
  | widePair rd v re u =>
    obtain rfl | rfl : r = rd ∨ r = re := by simpa using hmem (perform_widePair_wrote s rd v re u).others
    · exact .inl he.1
    · exact .inr he.2
  | dout hi lo => cases hmem (perform_dout_wrote s hi lo).regs
  | flagF b => cases hmem (perform_flagF_wrote s b).regs
  | fault code => cases hmem (raise_faulted s code).regs

end Commit

theorem rdField_encode {i : Instr} {r : Reg} (h : i.destRD = some r) : rdField (encode i) = r := by
  rw [encode_eq_cmdWord, rdField_cmdWord, h, Option.getD_some]

theorem reField_encode {i : Instr} {r : Reg} (h : i.destRE = some r) : reField (encode i) = r := by
  rw [encode_eq_cmdWord, reField_cmdWord, h, Option.getD_some]

theorem Instr.opcode_not_mem_of_destRD {i : Instr} {r : Reg} (h : i.destRD = some r) :
    i.opcode ∉ [0x05#6, 0x06#6, 0x07#6, 0x08#6, 0x09#6, 0x19#6, 0x1A#6, 0x1B#6, 0x1C#6, 0x1D#6, 0x1E#6] := by
  cases i
  case rdw | trunc | tof32 | tof64 | tobool | eq | ne | lt | le | gt | ge => cases h
  all_goals simp [opcode]

theorem Instr.opcode_of_destRE {i : Instr} {r : Reg} (h : i.destRE = some r) : i.opcode = 0x26#6 := by
  cases i
  case divmod => rfl
  all_goals cases h

/-- Every commit ends the command, and leaves the host's side alone. -/
theorem perform_ends (s : State) (e : Effect) :
    (s.perform e).status.busy = false ∧ (s.perform e).inflight = none ∧ (s.perform e).pins = s.pins ∧
      (s.perform e).script = s.script := by
  obtain hended | ⟨_, -, hfaulted⟩ := perform_ended_or_faulted s e
  · exact ⟨hended.busy, hended.inflight, hended.pins, hended.script⟩
  · exact ⟨hfaulted.busy, hfaulted.inflight, hfaulted.pins, hfaulted.script⟩

/-- Settles O19: what changed tells the shape of the effect, and that shape is in the command's row. -/
theorem commandsWriteOnlyTheirColumn : Obligations.CommandsWriteOnlyTheirColumn := by
  intro i s t h
  rw [exec_eq_perform] at h
  cases h
  have hcolumn : InColumn i (effectIn i s) := effectOf_inColumn ..
  refine ⟨fun hf => ?_, fun hc => ?_, fun hdout => ?_, fun r hr => ?_, perform_ends s _⟩
  · obtain ⟨b, he⟩ := eq_flagF_of_perform_f_ne hf
    rw [he] at hcolumn
    exact hcolumn
  · obtain ⟨rd, v, c, he⟩ := eq_wideCarry_of_perform_c_ne hc
    rw [he] at hcolumn
    exact hcolumn.2
  · obtain ⟨hi, lo, he⟩ := eq_dout_of_not_doutKept hdout
    rw [he] at hcolumn
    exact hcolumn
  · obtain hrd | hre := destination_of_perform_reg_ne hcolumn hr
    · exact .inl ⟨rdField_encode hrd, Instr.opcode_not_mem_of_destRD hrd⟩
    · exact .inr ⟨reField_encode hre, Instr.opcode_of_destRE hre⟩

/-! The pseudo-instructions (R62). -/

/-- An unsigned native keeps its value (40_conversion.md R70). -/
theorem toNat_promoteU (w : NativeWidth) (v : Word) : (promoteU w v).toNat = v.toNat % 2 ^ w.bits := by
  simp [promoteU, Wide.toNat, toNat_zext64 _ (NativeWidth.bits_le w)]

/-- A signed native keeps its value modulo 2^128 (40_conversion.md R71). -/
theorem toNat_promoteS (w : NativeWidth) (v : Word) :
    ((promoteS w v).toNat : Int) = (v.setWidth w.bits).toInt % 2 ^ 128 := by
  have hlo : (sext64 w.bits v).toInt = (v.setWidth w.bits).toInt :=
    BitVec.toInt_signExtend_of_le (NativeWidth.bits_le w)
  have hlt := (sext64 w.bits v).isLt
  rw [← hlo, BitVec.toInt_eq_msb_cond, promoteS, Wide.toNat]
  dsimp only
  split
  · rw [BitVec.toNat_allOnes]
    omega
  · simp only [BitVec.ofNat_eq_ofNat, BitVec.toNat_ofNat, Nat.zero_mod]
    omega

/-- MOV writes its operand's value to RD (40_conversion.md R74). -/
theorem exec_mov (rd : Reg) (a : Operand) (s : State) : ∃ t, exec (.mov rd a) s = .next t ∧ t.reg rd = a.value s :=
  ⟨_, rfl, by simp [effectMov]⟩

/-- F of TOBOOL says whether the value is not 0 (40_conversion.md R82). -/
theorem flagTruth_iff (a : Wide) : flagTruth a = true ↔ a.toNat ≠ 0 := by
  rw [Ne, Wide.toNat_eq_zero_iff]
  obtain ⟨hi, lo⟩ := a
  simp [flagTruth, Wide.zero, ← not_and_or]

/-- Settles O54, by the effect of each expansion's command on the DIN words the host drives. -/
theorem pseudoInstructionsDoAsNamed : Obligations.PseudoInstructionsDoAsNamed := by
  refine ⟨?ldu, ?lds, ?ldw, ?clr, ?cpy, ?tst, ?cmp⟩
  case ldu =>
    intro rd imm s himm
    obtain ⟨t, hexec, hreg⟩ := exec_mov rd (.din ⟨.w64, false⟩) ((Pseudo.ldu rd imm).expand.drive s)
    refine ⟨t, hexec, ?_⟩
    rw [hreg]
    refine (toNat_promoteU .w64 (BitVec.ofNat 64 imm)).trans ?_
    simpa [NativeWidth.bits] using himm
  case lds =>
    intro rd imm s hlo hhi
    obtain ⟨t, hexec, hreg⟩ := exec_mov rd (.din ⟨.w64, true⟩) ((Pseudo.lds rd imm).expand.drive s)
    refine ⟨t, hexec, ?_⟩
    rw [hreg]
    refine (toNat_promoteS .w64 (BitVec.ofInt 64 imm)).trans ?_
    have himm : (BitVec.ofInt 64 imm).toInt = imm := by
      rw [BitVec.toInt_ofInt]
      exact Int.bmod_eq_of_le (by omega) (by omega)
    rw [NativeWidth.bits, BitVec.setWidth_eq, himm]
  case ldw => exact fun rd hi lo s => ⟨_, rfl, by simp [effectPair, Pseudo.expand, Expansion.drive]⟩
  case clr =>
    intro rd s
    obtain ⟨t, hexec, hreg⟩ := exec_mov rd (.din ⟨.w64, false⟩) ((Pseudo.clr rd).expand.drive s)
    exact ⟨t, hexec, hreg⟩
  case cpy => exact fun rd ra s => exec_mov rd (.reg ra) ((Pseudo.cpy rd ra).expand.drive s)
  case tst => exact fun a s => ⟨_, rfl, flagTruth_iff (a.value s)⟩
  case cmp => exact fun a b s => ⟨rfl, rfl, rfl, rfl, rfl, rfl⟩

/-- Settles O4, by evaluation of the decoder. -/
theorem specExampleWordsDecode : Obligations.SpecExampleWordsDecode := by
  unfold Obligations.SpecExampleWordsDecode
  decide

end Sys2Proof

/-! SUPPORT and PROOFS. Conversion (40_conversion.md): truncation of a float (R72), rounding to the nearest float (R73),
narrowing to a native (R79), and the statements about the conversion commands. -/

namespace Sys2Proof.Machine

/-! Truncation of a float (40_conversion.md R72). -/

/-- Scaling by the exponent as a whole: a quotient of powers of two is a shift to the left or to the right. -/
theorem mul_two_pow_div_two_pow (sig e one : Nat) :
    sig * 2 ^ e / 2 ^ one = if one ≤ e then 2 ^ (e - one) * sig else sig / 2 ^ (one - e) := by
  split
  case isTrue h =>
    obtain ⟨d, rfl⟩ := Nat.exists_eq_add_of_le h
    rw [Nat.add_sub_cancel_left, Nat.pow_add, Nat.mul_left_comm, Nat.mul_div_cancel_left _ (Nat.two_pow_pos one),
      Nat.mul_comm]
  case isFalse h =>
    obtain ⟨d, rfl⟩ := Nat.exists_eq_add_of_le (Nat.le_of_not_le h)
    rw [Nat.add_sub_cancel_left, Nat.pow_add, Nat.mul_comm sig, Nat.mul_div_mul_left _ _ (Nat.two_pow_pos e)]

theorem FloatFormat.fraction_lt (fmt : FloatFormat) (f : BitVec fmt.width) : fmt.fraction f < 2 ^ fmt.fracBits :=
  Nat.mod_lt _ (Nat.two_pow_pos _)

/-- What a float truncates to, by its fields: the two shifts of R72 are one quotient, and saturation is a minimum. -/
theorem toNat_fpToU128 (fmt : FloatFormat) (hfrac : fmt.fracBits < 127) (f : BitVec fmt.width) :
    (fpToU128 fmt f).toNat =
      if fmt.exponent f = fmt.emaxField ∧ fmt.fraction f ≠ 0 then 0
      else if fmt.sign f then 0
      else if fmt.exponent f = fmt.emaxField then 2 ^ 128 - 1
      else if fmt.exponent f = 0 then 0
      else min (2 ^ 128 - 1)
        ((2 ^ fmt.fracBits + fmt.fraction f) * 2 ^ fmt.exponent f / 2 ^ (fmt.bias + fmt.fracBits)) := by
  have hsig : 2 ^ fmt.fracBits + fmt.fraction f < 2 ^ 128 := by
    have hlt := fmt.fraction_lt f
    have hpow : 2 ^ fmt.fracBits < 2 ^ 127 := Nat.pow_lt_pow_right (by decide) hfrac
    omega
  simp only [fpToU128, FloatFormat.prec, Nat.add_sub_cancel, mul_two_pow_div_two_pow]
  split_ifs
  · rfl
  · rfl
  · rfl
  · rfl
  · rw [Wide.toNat_ones]
    omega
  · rw [Wide.toNat_ofNat_of_lt (by omega)]
    omega
  · have hle : (2 ^ fmt.fracBits + fmt.fraction f) / 2 ^ (fmt.bias + fmt.fracBits - fmt.exponent f) ≤
        2 ^ fmt.fracBits + fmt.fraction f := Nat.div_le_self _ _
    rw [Wide.toNat_ofNat_of_lt (by omega)]
    omega

/-! The fields of a pattern in the low bits of a word (R76, R77). -/

theorem FloatFormat.exponent_setWidth (fmt : FloatFormat) (v : Word) :
    fmt.exponent (v.setWidth fmt.width) = v.toNat / 2 ^ fmt.fracBits % 2 ^ fmt.expBits := by
  have hwidth : 2 ^ fmt.width = 2 ^ fmt.fracBits * 2 ^ (fmt.expBits + 1) := by
    rw [← Nat.pow_add, width]
    congr 1
    omega
  rw [exponent, BitVec.toNat_setWidth, hwidth, Nat.mod_mul_right_div_self,
    Nat.mod_mod_of_dvd _ (Nat.pow_dvd_pow 2 (Nat.le_succ _))]

theorem FloatFormat.fraction_setWidth (fmt : FloatFormat) (v : Word) :
    fmt.fraction (v.setWidth fmt.width) = v.toNat % 2 ^ fmt.fracBits := by
  have hdvd : 2 ^ fmt.fracBits ∣ 2 ^ fmt.width := Nat.pow_dvd_pow 2 (Nat.le_add_left _ _)
  rw [fraction, BitVec.toNat_setWidth, Nat.mod_mod_of_dvd _ hdvd]

theorem FloatFormat.sign_setWidth (fmt : FloatFormat) (v : Word) :
    fmt.sign (v.setWidth fmt.width) = v.getLsbD (fmt.expBits + fmt.fracBits) := by
  have hlt : fmt.expBits + fmt.fracBits < fmt.width := by
    unfold width
    omega
  rw [sign, BitVec.getLsbD_setWidth, decide_eq_true hlt, Bool.true_and]

/-- The same of a pattern in the low bits of a word. -/
theorem toNat_fpToU128_setWidth (fmt : FloatFormat) (hfrac : fmt.fracBits < 127) (v : Word) :
    (fpToU128 fmt (v.setWidth fmt.width)).toNat =
      let e := v.toNat / 2 ^ fmt.fracBits % 2 ^ fmt.expBits
      let m := v.toNat % 2 ^ fmt.fracBits
      if e = fmt.emaxField ∧ m ≠ 0 then 0
      else if v.getLsbD (fmt.expBits + fmt.fracBits) then 0
      else if e = fmt.emaxField then 2 ^ 128 - 1
      else if e = 0 then 0
      else min (2 ^ 128 - 1) ((2 ^ fmt.fracBits + m) * 2 ^ e / 2 ^ (fmt.bias + fmt.fracBits)) := by
  rw [toNat_fpToU128 fmt hfrac, fmt.exponent_setWidth, fmt.fraction_setWidth, fmt.sign_setWidth]

/-! Rounding to a quotient (40_conversion.md R73). -/

/-- `a / u` rounded to the nearest natural number, half to even. -/
def nearestQuotient (u a : Nat) : Nat :=
  if u < 2 * (a % u) ∨ (2 * (a % u) = u ∧ a / u % 2 = 1) then a / u + 1 else a / u

/-- No number outside the gap between the two neighbouring multiples of `u` is nearer to `a` than the multiple the rounding
picks, and one as near is that multiple or makes it an even one. -/
theorem nearestQuotient_nearest {u : Nat} (hu : 0 < u) (a : Nat) {v : Nat} (hv : v ≤ u * (a / u) ∨ u * (a / u + 1) ≤ v) :
    ((u * nearestQuotient u a : Nat) - (a : Nat) : Int).natAbs ≤ ((v : Nat) - (a : Nat) : Int).natAbs ∧
    (((u * nearestQuotient u a : Nat) - (a : Nat) : Int).natAbs = ((v : Nat) - (a : Nat) : Int).natAbs →
      v = u * nearestQuotient u a ∨ nearestQuotient u a % 2 = 0) := by
  have hdiv : u * (a / u) + a % u = a := Nat.div_add_mod a u
  have hmod : a % u < u := Nat.mod_lt a hu
  rw [Nat.mul_succ] at hv
  unfold nearestQuotient
  split
  · rw [Nat.mul_succ]
    omega
  · omega

theorem nearestQuotient_mul_left {c : Nat} (hc : 0 < c) (u a : Nat) :
    nearestQuotient (c * u) (c * a) = nearestQuotient u a := by
  have hlt : c * u < 2 * (c * (a % u)) ↔ u < 2 * (a % u) := by
    rw [Nat.mul_left_comm, Nat.mul_lt_mul_left hc]
  have heq : 2 * (c * (a % u)) = c * u ↔ 2 * (a % u) = u := by
    rw [Nat.mul_left_comm, Nat.mul_right_inj hc.ne']
  simp only [nearestQuotient, Nat.mul_div_mul_left _ _ hc, Nat.mul_mod_mul_left, hlt, heq]

theorem nearestQuotient_mul_self {u : Nat} (hu : 0 < u) (k : Nat) : nearestQuotient u (u * k) = k := by
  simp [nearestQuotient, hu, hu.ne]

/-- The model's rounding of a significand is the rounded quotient. -/
theorem roundHalfEven_eq {sh : Nat} (hsh : 0 < sh) (x : Nat) :
    roundHalfEven (x / 2 ^ sh) (x % 2 ^ sh) sh = nearestQuotient (2 ^ sh) x := by
  obtain ⟨h, rfl⟩ : ∃ h, sh = h + 1 := ⟨sh - 1, by omega⟩
  have hlt : 2 ^ (h + 1) < 2 * (x % 2 ^ (h + 1)) ↔ 2 ^ h < x % 2 ^ (h + 1) := by omega
  have heq : 2 * (x % 2 ^ (h + 1)) = 2 ^ (h + 1) ↔ x % 2 ^ (h + 1) = 2 ^ h := by omega
  simp only [roundHalfEven, nearestQuotient, hlt, heq, Nat.add_sub_cancel]

/-! The significand of the rounded value, before a carry out of it is put right. -/

/-- `x / 2^p` with `frac` fraction bits, rounded, where the leading 1 of `x` has weight `2^p`. -/
def roundedSignificand (frac x : Nat) : Nat := nearestQuotient (2 ^ Nat.log2 x) (2 ^ frac * x)

/-- The two branches of R73: exact where the leading 1 stands no higher than the hidden bit, and rounded above it. -/
theorem roundedSignificand_eq (frac x : Nat) :
    roundedSignificand frac x =
      if Nat.log2 x ≤ frac then 2 ^ (frac - Nat.log2 x) * x
      else roundHalfEven (x / 2 ^ (Nat.log2 x - frac)) (x % 2 ^ (Nat.log2 x - frac)) (Nat.log2 x - frac) := by
  unfold roundedSignificand
  split
  case isTrue h =>
    have hpow : 2 ^ frac = 2 ^ Nat.log2 x * 2 ^ (frac - Nat.log2 x) := by rw [← Nat.pow_add, Nat.add_sub_cancel' h]
    rw [hpow, Nat.mul_assoc, nearestQuotient_mul_self (Nat.two_pow_pos _)]
  case isFalse h =>
    have hpow : 2 ^ Nat.log2 x = 2 ^ frac * 2 ^ (Nat.log2 x - frac) := by
      rw [← Nat.pow_add, Nat.add_sub_cancel' (by omega)]
    rw [hpow, nearestQuotient_mul_left (Nat.two_pow_pos _), roundHalfEven_eq (by omega)]

/-- Before rounding the significand has `frac + 1` bits. -/
theorem quotient_bounds {x : Nat} (hx : x ≠ 0) (frac : Nat) :
    2 ^ frac ≤ 2 ^ frac * x / 2 ^ Nat.log2 x ∧ 2 ^ frac * x / 2 ^ Nat.log2 x < 2 ^ (frac + 1) := by
  rw [Nat.le_div_iff_mul_le (Nat.two_pow_pos _), Nat.div_lt_iff_lt_mul (Nat.two_pow_pos _), Nat.pow_succ, Nat.mul_assoc,
    ← Nat.pow_succ']
  exact ⟨Nat.mul_le_mul_left _ (Nat.log2_self_le hx), Nat.mul_lt_mul_of_pos_left Nat.lt_log2_self (Nat.two_pow_pos _)⟩

/-- Rounding can carry, to `2^(frac + 1)` and no further. -/
theorem roundedSignificand_bounds {x : Nat} (hx : x ≠ 0) (frac : Nat) :
    2 ^ frac ≤ roundedSignificand frac x ∧ roundedSignificand frac x ≤ 2 ^ (frac + 1) := by
  obtain ⟨hlow, hhigh⟩ := quotient_bounds hx frac
  unfold roundedSignificand nearestQuotient
  split <;> omega

/-! The values of the floats (00_scope.md R11), times `2^one`. -/

theorem floatValue_lt_of_exponent_lt {frac e m e' m' : Nat} (hm : m < 2 ^ frac) (he : e < e') :
    2 ^ e * (2 ^ frac + m) < 2 ^ e' * (2 ^ frac + m') :=
  calc 2 ^ e * (2 ^ frac + m) < 2 ^ e * (2 * 2 ^ frac) := Nat.mul_lt_mul_of_pos_left (by omega) (Nat.two_pow_pos e)
    _ = 2 ^ (e + 1) * 2 ^ frac := by rw [Nat.pow_succ, Nat.mul_assoc]
    _ ≤ 2 ^ e' * (2 ^ frac + m') := Nat.mul_le_mul (Nat.pow_le_pow_right (by decide) he) (Nat.le_add_right _ _)

/-- A value has one pair of fields. -/
theorem floatValue_inj {frac e m e' m' : Nat} (hm : m < 2 ^ frac) (hm' : m' < 2 ^ frac)
    (h : 2 ^ e * (2 ^ frac + m) = 2 ^ e' * (2 ^ frac + m')) : e = e' ∧ m = m' := by
  rcases Nat.lt_trichotomy e e' with hlt | rfl | hgt
  · exact absurd h (floatValue_lt_of_exponent_lt hm hlt).ne
  · have hsum := Nat.eq_of_mul_eq_mul_left (Nat.two_pow_pos e) h
    exact ⟨rfl, by omega⟩
  · exact absurd h (floatValue_lt_of_exponent_lt hm' hgt).ne'

/-- No float lies strictly between two neighbouring multiples of `2^e` from `2^e · 2^frac` on. -/
theorem floatValue_outside_gap {frac e k m' : Nat} (hk : 2 ^ frac ≤ k) (hm' : m' < 2 ^ frac) (e' : Nat) :
    2 ^ e' * (2 ^ frac + m') ≤ 2 ^ e * k ∨ 2 ^ e * (k + 1) ≤ 2 ^ e' * (2 ^ frac + m') := by
  by_cases he : e' < e
  · left
    calc 2 ^ e' * (2 ^ frac + m') ≤ 2 ^ e * (2 ^ frac + 0) := (floatValue_lt_of_exponent_lt hm' he).le
      _ ≤ 2 ^ e * k := Nat.mul_le_mul_left _ hk
  · obtain ⟨d, rfl⟩ := Nat.exists_eq_add_of_le (Nat.le_of_not_lt he)
    rw [Nat.pow_add, Nat.mul_assoc, Nat.mul_le_mul_left_iff (Nat.two_pow_pos e), Nat.mul_le_mul_left_iff (Nat.two_pow_pos e)]
    omega

/-! The fields of the rounded value (R73). -/

namespace FloatFormat

/-- The exponent field of `x` rounded, one more where the significand carries. -/
def roundedExponent (fmt : FloatFormat) (x : Nat) : Nat :=
  (if roundedSignificand fmt.fracBits x = 2 ^ (fmt.fracBits + 1) then Nat.log2 x + 1 else Nat.log2 x) + fmt.bias

/-- The fraction field of `x` rounded, 0 where the significand carries. -/
def roundedFraction (fmt : FloatFormat) (x : Nat) : Nat :=
  if roundedSignificand fmt.fracBits x = 2 ^ (fmt.fracBits + 1) then 0 else roundedSignificand fmt.fracBits x - 2 ^ fmt.fracBits

variable (fmt : FloatFormat)

theorem le_roundedExponent (x : Nat) : fmt.bias ≤ fmt.roundedExponent x := Nat.le_add_left _ _

theorem roundedFraction_even {x : Nat} (hfrac : 0 < fmt.fracBits) (heven : roundedSignificand fmt.fracBits x % 2 = 0) :
    fmt.roundedFraction x % 2 = 0 := by
  obtain ⟨n, hn⟩ : ∃ n, fmt.fracBits = n + 1 := ⟨fmt.fracBits - 1, by omega⟩
  have hpow : 2 ^ fmt.fracBits = 2 * 2 ^ n := by rw [hn, Nat.pow_succ']
  unfold roundedFraction
  split <;> omega

variable {x : Nat} (hx : x ≠ 0)
include hx

theorem roundedFraction_lt : fmt.roundedFraction x < 2 ^ fmt.fracBits := by
  have hbounds := roundedSignificand_bounds hx fmt.fracBits
  have hpos := Nat.two_pow_pos fmt.fracBits
  unfold roundedFraction
  split <;> omega

/-- The fields stand for the rounded significand at the weight of the leading 1. -/
theorem rounded_value :
    2 ^ fmt.roundedExponent x * (2 ^ fmt.fracBits + fmt.roundedFraction x) =
      2 ^ (Nat.log2 x + fmt.bias) * roundedSignificand fmt.fracBits x := by
  have hbounds := roundedSignificand_bounds hx fmt.fracBits
  unfold roundedExponent roundedFraction
  split
  case isTrue hcarry =>
    rw [hcarry, Nat.add_right_comm, Nat.pow_succ, Nat.pow_succ, Nat.add_zero, Nat.mul_assoc, Nat.mul_comm 2]
  case isFalse => rw [Nat.add_sub_cancel' hbounds.1]

/-- Where the exponent does not overflow, the rounded value is the nearest float: the floats lie outside the gap between
the two neighbours the rounding chooses from. -/
theorem rounded_nearestEven (hbias : 0 < fmt.bias) (hfrac : 0 < fmt.fracBits)
    (hfinite : fmt.roundedExponent x < fmt.emaxField) :
    NearestEven fmt.fracBits (fmt.bias + fmt.fracBits) fmt.emaxField x (fmt.roundedExponent x) (fmt.roundedFraction x) := by
  refine ⟨Nat.le_trans hbias (fmt.le_roundedExponent x), hfinite, fmt.roundedFraction_lt hx, fun e' m' _ _ hm' => ?_⟩
  have hscale : roundedSignificand fmt.fracBits x =
      nearestQuotient (2 ^ (Nat.log2 x + fmt.bias)) (2 ^ (fmt.bias + fmt.fracBits) * x) := by
    rw [Nat.add_comm, Nat.pow_add, Nat.pow_add, Nat.mul_assoc, nearestQuotient_mul_left (Nat.two_pow_pos _),
      roundedSignificand]
  have hquotient : 2 ^ fmt.fracBits ≤ 2 ^ (fmt.bias + fmt.fracBits) * x / 2 ^ (Nat.log2 x + fmt.bias) := by
    rw [Nat.add_comm (Nat.log2 x), Nat.pow_add, Nat.pow_add, Nat.mul_assoc, Nat.mul_div_mul_left _ _ (Nat.two_pow_pos _)]
    exact (quotient_bounds hx fmt.fracBits).1
  have hnearest := nearestQuotient_nearest (Nat.two_pow_pos _) _ (floatValue_outside_gap hquotient hm' e')
  rw [← hscale, ← fmt.rounded_value hx] at hnearest
  refine ⟨hnearest.1, fun hdistance => ?_⟩
  rcases hnearest.2 hdistance with hvalue | heven
  · exact .inl (floatValue_inj hm' (fmt.roundedFraction_lt hx) hvalue)
  · exact .inr (fmt.roundedFraction_even hfrac heven)

end FloatFormat

theorem u128ToFp_of_zero (fmt : FloatFormat) {x : Wide} (hx : x.toNat = 0) : u128ToFp fmt x = 0 := if_pos hx

/-- `u128_to_fp` of a nonzero value packs the rounded fields, or those of +Inf where the exponent overflows (R73). -/
theorem u128ToFp_eq (fmt : FloatFormat) (x : Wide) (hx : x.toNat ≠ 0) :
    u128ToFp fmt x =
      if fmt.emaxField ≤ fmt.roundedExponent x.toNat then fmt.pack fmt.emaxField 0
      else fmt.pack (fmt.roundedExponent x.toNat) (fmt.roundedFraction x.toNat) := by
  have hlog : 127 - clz128 x = Nat.log2 x.toNat := by
    have := log2_le_127 x
    rw [clz128, if_neg hx]
    omega
  simp only [u128ToFp, if_neg hx, hlog, FloatFormat.prec, Nat.add_sub_cancel, ← roundedSignificand_eq,
    FloatFormat.roundedExponent, FloatFormat.roundedFraction]
  split_ifs <;> simp

/-! The fields of a packed pattern (00_scope.md R11). -/

theorem FloatFormat.toNat_pack (fmt : FloatFormat) {e m : Nat} (he : e < 2 ^ fmt.expBits) (hm : m < 2 ^ fmt.fracBits) :
    (fmt.pack e m).toNat = 2 ^ fmt.fracBits * e + m ∧ 2 ^ fmt.fracBits * e + m < 2 ^ (fmt.expBits + fmt.fracBits) := by
  have hlt : 2 ^ fmt.fracBits * e + m < 2 ^ (fmt.expBits + fmt.fracBits) :=
    calc 2 ^ fmt.fracBits * e + m < 2 ^ fmt.fracBits * (e + 1) := Nat.add_lt_add_left hm _
      _ ≤ 2 ^ fmt.fracBits * 2 ^ fmt.expBits := Nat.mul_le_mul_left _ he
      _ = 2 ^ (fmt.expBits + fmt.fracBits) := by rw [Nat.add_comm, Nat.pow_add]
  refine ⟨?_, hlt⟩
  rw [pack, BitVec.toNat_ofNat]
  exact Nat.mod_eq_of_lt (Nat.lt_of_lt_of_le hlt (Nat.pow_le_pow_right (by decide) (by unfold width; omega)))

/-- A nonzero value whose rounding does not overflow gives the pattern, with sign 0, of the nearest float. -/
theorem u128ToFp_nearestEven (fmt : FloatFormat) (hbias : 0 < fmt.bias) (hfrac : 0 < fmt.fracBits) (x : Wide)
    (hx : x.toNat ≠ 0) (hfinite : fmt.roundedExponent x.toNat < fmt.emaxField) :
    (u128ToFp fmt x).toNat < 2 ^ (fmt.expBits + fmt.fracBits) ∧
      NearestEven fmt.fracBits (fmt.bias + fmt.fracBits) fmt.emaxField x.toNat
        ((u128ToFp fmt x).toNat / 2 ^ fmt.fracBits) ((u128ToFp fmt x).toNat % 2 ^ fmt.fracBits) := by
  have hm := fmt.roundedFraction_lt hx
  obtain ⟨hpack, hlt⟩ := fmt.toNat_pack (Nat.lt_of_lt_of_le hfinite (Nat.sub_le _ 1)) hm
  rw [u128ToFp_eq fmt x hx, if_neg (Nat.not_le_of_lt hfinite), hpack]
  refine ⟨hlt, ?_⟩
  rw [Nat.mul_add_div (Nat.two_pow_pos _), Nat.div_eq_of_lt hm, Nat.add_zero, Nat.mul_add_mod, Nat.mod_eq_of_lt hm]
  exact fmt.rounded_nearestEven hx hbias hfrac hfinite

/-- binary32 overflows from half a unit in the last place below 2^128 on (R80). -/
theorem roundedExponent_binary32 (x : Wide) (hx : x.toNat ≠ 0) :
    binary32.emaxField ≤ binary32.roundedExponent x.toNat ↔ 2 ^ 128 - 2 ^ 103 ≤ x.toNat := by
  have hlt := x.toNat_lt
  have hp := log2_le_127 x
  have hcarry : Nat.log2 x.toNat = 127 → (roundedSignificand 23 x.toNat = 2 ^ 24 ↔ 2 ^ 128 - 2 ^ 103 ≤ x.toNat) := by
    intro h
    rw [roundedSignificand_eq, h, if_neg (by decide), roundHalfEven]
    have hlow := Nat.log2_self_le hx
    rw [h] at hlow
    split <;> omega
  have hlog : 2 ^ 128 - 2 ^ 103 ≤ x.toNat → Nat.log2 x.toNat = 127 := fun h =>
    (Nat.log2_eq_iff hx).mpr ⟨by omega, hlt⟩
  have hfields : binary32.roundedExponent x.toNat =
      (if roundedSignificand 23 x.toNat = 2 ^ 24 then Nat.log2 x.toNat + 1 else Nat.log2 x.toNat) + 127 := rfl
  have hemax : binary32.emaxField = 255 := rfl
  rw [hfields, hemax]
  split <;> omega

/-- binary64 never overflows (R81). -/
theorem roundedExponent_binary64 (x : Wide) : binary64.roundedExponent x.toNat < binary64.emaxField := by
  have hp := log2_le_127 x
  have hfields : binary64.roundedExponent x.toNat =
      (if roundedSignificand 52 x.toNat = 2 ^ 53 then Nat.log2 x.toNat + 1 else Nat.log2 x.toNat) + 1023 := rfl
  have hemax : binary64.emaxField = 2047 := rfl
  rw [hfields, hemax]
  split <;> omega

/-! Narrowing to a native (40_conversion.md R79). -/

/-- The low `w` bits of a word, extended to the word by the type's signedness: what TRUNC reads out, and the low word of a
promoted native. -/
def extend64 (t : NativeType) (v : Word) : Word :=
  if t.signed then sext64 t.width.bits v else zext64 t.width.bits v

theorem promote_lo (t : NativeType) (v : Word) : (promote t v).lo = extend64 t v := by
  unfold promote extend64
  split <;> rfl

theorem NativeWidth.bits_pos (w : NativeWidth) : 0 < w.bits := by cases w <;> decide

/-- The sign of a native is its top bit. -/
theorem NativeWidth.msb_setWidth (w : NativeWidth) (v : Word) : (v.setWidth w.bits).msb = v.getLsbD (w.bits - 1) := by
  simp [BitVec.msb_setWidth, bits_pos w]

theorem toNat_extend64 (t : NativeType) (v : Word) :
    (extend64 t v).toNat =
      (if t.signed = true ∧ v.getLsbD (t.width.bits - 1) = true then 2 ^ 64 - 2 ^ t.width.bits else 0)
        + v.toNat % 2 ^ t.width.bits := by
  have hzext := toNat_zext64 t.width.bits (NativeWidth.bits_le t.width) v
  unfold extend64
  cases t.signed with
  | false => simpa using hzext
  | true =>
    rw [zext64] at hzext
    simp [sext64, BitVec.toNat_signExtend, hzext, NativeWidth.msb_setWidth, Nat.add_comm]

/-- Extension keeps the low `w` bits. -/
theorem extend64_mod (t : NativeType) (v : Word) :
    (extend64 t v).toNat % 2 ^ t.width.bits = v.toNat % 2 ^ t.width.bits := by
  have hdvd : 2 ^ t.width.bits ∣ 2 ^ 64 - 2 ^ t.width.bits :=
    Nat.dvd_sub (Nat.pow_dvd_pow 2 (NativeWidth.bits_le t.width)) (Nat.dvd_refl _)
  rw [toNat_extend64]
  split
  · rw [Nat.add_mod, Nat.mod_eq_zero_of_dvd hdvd, Nat.zero_add, Nat.mod_mod, Nat.mod_mod]
  · rw [Nat.zero_add, Nat.mod_mod]

/-- TRUNC of an operand that holds a promoted native gives the native's bits (R83): its low word is their extension, and
is extended once more. -/
theorem exec_trunc_of_promoted {t : NativeType} {a : Operand} {s : State} {v : Word} (hvalue : a.value s = promote t v) :
    ∃ u, exec (.trunc t a) s = .next u ∧ u.doutLo.toNat % 2 ^ t.width.bits = v.toNat % 2 ^ t.width.bits := by
  refine ⟨s.perform (.dout 0 (extend64 t (a.value s).lo)), rfl, ?_⟩
  rw [State.perform_dout_doutLo, hvalue, promote_lo, extend64_mod, extend64_mod]

/-! The word of a command, when the strict machine stops on it, and the commit of a value to RD. -/

theorem opField_encode (i : Instr) : opField (encode i) = i.opcode := by
  rw [encode_eq_cmdWord, opField_cmdWord]

/-- A command with the one operand `a` stops the strict machine when `a` is unwritten (60_exceptions.md R166). -/
theorem strictExec_unwritten_iff_operandA {i : Instr} {a : Operand} (ha : i.operandA = some a) (hb : i.operandB = none)
    (s : State) : strictExec i s = .fault .unwritten ↔ a.unwritten s = true := by
  simp [strictExec_unwritten_iff, Instr.readsUnwritten, ha, hb]

/-- A command with no operand runs alike in the strict machine. -/
theorem strictExec_eq_exec_of_no_operand {i : Instr} (ha : i.operandA = none) (hb : i.operandB = none) (s : State) :
    strictExec i s = exec i s := by
  simp [strictExec, Instr.readsUnwritten, ha, hb]

/-- A command that commits a value to RD, and nothing else. -/
theorem exec_wrote_wide {i : Instr} {s : State} {rd : Reg} {v : Wide} (h : exec i s = .next (s.perform (.wide rd v))) :
    ∃ t, exec i s = .next t ∧ WroteRegs s t [rd] ∧ t.status.c = s.status.c ∧ t.reg rd = v :=
  ⟨_, h, perform_wide_wrote s rd v, rfl, by simp⟩

/-! The obligations. -/

/-- Settles O22: all the conjuncts are read off the value modulo 2^128, which the sign of the native makes exact. -/
theorem signedPromotionSignExtends : Obligations.SignedPromotionSignExtends := by
  intro w v
  have hmod := toNat_promoteS w v
  refine ⟨rfl, rfl, ?bits, ?value, rfl⟩
  case bits =>
    apply BitVec.eq_of_toNat_eq
    rw [Wide.toNat_toBits, BitVec.signExtend, BitVec.toNat_ofInt]
    omega
  case value =>
    have hle : 2 ^ w.bits ≤ 2 ^ 64 := Nat.pow_le_pow_right (by decide) (NativeWidth.bits_le w)
    have hlt := (v.setWidth w.bits).isLt
    rw [hmod, ← NativeWidth.msb_setWidth, BitVec.toInt_eq_msb_cond]
    split <;> omega

/-- Settles O24, by the fields of DIN_LO[31:0]. -/
theorem cvtf32TruncatesAndSaturates : Obligations.Cvtf32TruncatesAndSaturates := by
  intro rd s
  obtain ⟨t, hexec, hwrote, hc, hreg⟩ := exec_wrote_wide (i := .cvtf32 rd) (s := s) rfl
  refine ⟨opField_encode _, strictExec_eq_exec_of_no_operand rfl rfl s, t, hexec, hwrote, hc, ?_⟩
  have hvalue := toNat_fpToU128_setWidth binary32 (by decide) s.pins.dinLo
  rw [hreg]
  exact hvalue

/-- Settles O25, by the fields of DIN_LO. -/
theorem cvtf64TruncatesAndSaturates : Obligations.Cvtf64TruncatesAndSaturates := by
  intro rd s
  obtain ⟨t, hexec, hwrote, hc, hreg⟩ := exec_wrote_wide (i := .cvtf64 rd) (s := s) rfl
  refine ⟨opField_encode _, strictExec_eq_exec_of_no_operand rfl rfl s, t, hexec, hwrote, hc, ?_⟩
  have hvalue := toNat_fpToU128_setWidth binary64 (by decide) s.pins.dinLo
  have hone : binary64.bias + binary64.fracBits = 1075 := rfl
  rw [hone] at hvalue
  rw [hreg]
  exact hvalue

/-- Settles O27: DOUT_LO is the extension of the low bits. -/
theorem truncNarrowsToTheType : Obligations.TruncNarrowsToTheType := fun w signed a s =>
  ⟨opField_encode _, strictExec_unwritten_iff_operandA rfl rfl s, _, _, rfl, perform_dout_wrote s 0 _,
    toNat_extend64 ⟨w, signed⟩ (a.value s).lo⟩

/-- Settles O28: below the bound the rounded fields are those of the nearest float, from it on they overflow. -/
theorem tof32RoundsToNearestEven : Obligations.Tof32RoundsToNearestEven := by
  intro a s
  refine ⟨opField_encode _, strictExec_unwritten_iff_operandA rfl rfl s, _, _, rfl, perform_dout_wrote s 0 _,
    ?zero, ?infinity, ?finite⟩
  case zero =>
    intro h
    rw [u128ToFp_of_zero _ h]
    rfl
  case infinity =>
    intro h
    have hx : (a.value s).toNat ≠ 0 := by omega
    rw [u128ToFp_eq _ _ hx, if_pos ((roundedExponent_binary32 _ hx).mpr h)]
    rfl
  case finite =>
    intro hpos hlt
    have hx : (a.value s).toNat ≠ 0 := hpos.ne'
    have hfinite := (lt_iff_lt_of_le_iff_le (roundedExponent_binary32 _ hx)).mpr hlt
    rw [BitVec.toNat_setWidth_of_le (by decide)]
    exact u128ToFp_nearestEven binary32 (by decide) (by decide) _ hx hfinite

/-- Settles O29: no exponent overflows, so the rounded fields are those of the nearest float. -/
theorem tof64RoundsToNearestEven : Obligations.Tof64RoundsToNearestEven := by
  intro a s
  refine ⟨opField_encode _, strictExec_unwritten_iff_operandA rfl rfl s, _, _, rfl, perform_dout_wrote s 0 _,
    ?zero, ?finite⟩
  case zero =>
    intro h
    rw [u128ToFp_of_zero _ h]
    rfl
  case finite =>
    intro hpos
    rw [BitVec.toNat_setWidth_of_le (by decide)]
    exact u128ToFp_nearestEven binary64 (by decide) (by decide) _ hpos.ne' (roundedExponent_binary64 _)

/-- Settles O31: TRUNC reads out the promoted native from the register it was moved to, as it does from DIN_LO. -/
theorem narrowingUndoesPromotion : Obligations.NarrowingUndoesPromotion := by
  intro w signed rd s t h
  obtain ⟨t', hexec, hreg⟩ := exec_mov rd (.din ⟨w, signed⟩) s
  obtain rfl : t' = t := by simpa [hexec] using h
  exact ⟨exec_trunc_of_promoted hreg, exec_trunc_of_promoted rfl⟩

/-- Settles O21, by the value of the zero extension. -/
theorem unsignedPromotionZeroExtends : Obligations.UnsignedPromotionZeroExtends := fun w v =>
  ⟨rfl, toNat_zext64 w.bits (NativeWidth.bits_le w) v, rfl⟩

/-- Settles O23: both commit one value to RD. -/
theorem movAndPairLoadTheRegister : Obligations.MovAndPairLoadTheRegister := by
  refine ⟨fun rd a s => ?mov, fun rd s => ?pair⟩
  case mov =>
    exact ⟨opField_encode _, strictExec_unwritten_iff_operandA rfl rfl s, exec_wrote_wide rfl⟩
  case pair =>
    obtain ⟨t, hexec, hwrote, hc, hreg⟩ := exec_wrote_wide (i := .pair rd) (s := s) rfl
    exact ⟨opField_encode _, strictExec_eq_exec_of_no_operand rfl rfl s, t, hexec, hwrote, hc, by rw [hreg], by rw [hreg]⟩

/-- Settles O26: the commit is of DOUT alone. -/
theorem rdwReadsTheValueOut : Obligations.RdwReadsTheValueOut := fun a s =>
  ⟨opField_encode _, strictExec_unwritten_iff_operandA rfl rfl s, _, rfl,
    perform_dout_wrote s (a.value s).hi (a.value s).lo⟩

/-- Settles O30: the commit is of F alone, and F is the truth value of the operand. -/
theorem toboolTestsForNonzero : Obligations.ToboolTestsForNonzero := fun a s =>
  ⟨opField_encode _, strictExec_unwritten_iff_operandA rfl rfl s, _, rfl, perform_flagF_wrote s (flagTruth (a.value s)),
    flagTruth_iff (a.value s)⟩

end Sys2Proof.Machine

/-! SUPPORT and PROOFS. The additive, bitwise and comparison commands (41_additive_bitwise.md): what their commits say of RD,
C and F, the bitwise operations on the 128 bits, and the comparisons of the unsigned values. -/

namespace Sys2Proof.Wide

/-! Word by word is on all the 128 bits (R107 to R110). -/

theorem toBits_not (x : Wide) : toBits ⟨~~~x.hi, ~~~x.lo⟩ = ~~~x.toBits := BitVec.not_append.symm

theorem toBits_and (x y : Wide) : toBits ⟨x.hi &&& y.hi, x.lo &&& y.lo⟩ = x.toBits &&& y.toBits :=
  BitVec.and_append.symm

theorem toBits_or (x y : Wide) : toBits ⟨x.hi ||| y.hi, x.lo ||| y.lo⟩ = x.toBits ||| y.toBits :=
  BitVec.or_append.symm

theorem toBits_xor (x y : Wide) : toBits ⟨x.hi ^^^ y.hi, x.lo ^^^ y.lo⟩ = x.toBits ^^^ y.toBits :=
  BitVec.xor_append.symm

theorem toBits_inj {x y : Wide} (h : x.toBits = y.toBits) : x = y :=
  toNat_inj (by rw [← toNat_toBits, h, toNat_toBits])

end Sys2Proof.Wide

namespace Sys2Proof.Machine

/-! Commands with two operands, and the commits of this family. -/

/-- A command with the operands `a` and `b` stops the strict machine when one of them is unwritten (60_exceptions.md R166). -/
theorem strictExec_unwritten_iff_operands {i : Instr} {a b : Operand} (ha : i.operandA = some a) (hb : i.operandB = some b)
    (s : State) : strictExec i s = .fault .unwritten ↔ a.unwritten s = true ∨ b.unwritten s = true := by
  simp [strictExec_unwritten_iff, Instr.readsUnwritten, ha, hb]

/-- A command that commits a value to RD and a carry or borrow to C, and nothing else. -/
theorem exec_wrote_wideCarry {i : Instr} {s : State} {rd : Reg} {v : Wide} {c : Bool}
    (h : exec i s = .next (s.perform (.wideCarry rd v c))) :
    ∃ t, exec i s = .next t ∧ WroteRegs s t [rd] ∧ t.reg rd = v ∧ t.status.c = c :=
  ⟨_, h, perform_wideCarry_wrote s rd v c, by simp, rfl⟩

/-- A command that commits `b` to F, and nothing else; `p` is what `b` decides. -/
theorem exec_wrote_flagF {i : Instr} {s : State} {b : Bool} {p : Prop} (h : exec i s = .next (s.perform (.flagF b)))
    (hb : b = true ↔ p) : ∃ t, exec i s = .next t ∧ WroteF s t ∧ (t.status.f = true ↔ p) :=
  ⟨_, h, perform_flagF_wrote s b, hb⟩

/-- A command that commits to RD the value whose 128 bits are `bits`, and nothing else. -/
theorem exec_wrote_bits {i : Instr} {s : State} {rd : Reg} {v : Wide} {bits : BitVec 128}
    (h : exec i s = .next (s.perform (.wide rd v))) (hbits : v.toBits = bits) :
    ∃ t, exec i s = .next t ∧ WroteRegs s t [rd] ∧ t.status.c = s.status.c ∧ (t.reg rd).toBits = bits := by
  obtain ⟨t, hexec, hwrote, hc, hreg⟩ := exec_wrote_wide h
  exact ⟨t, hexec, hwrote, hc, hreg ▸ hbits⟩

/-- A command has one next state, so what holds of some next state holds of the one at hand. -/
theorem of_exec_eq_next {i : Instr} {s t : State} {P : State → Prop} (hex : ∃ t, exec i s = .next t ∧ P t)
    (h : exec i s = .next t) : P t := by
  obtain ⟨t', hexec, hP⟩ := hex
  obtain rfl : t' = t := by simpa [hexec] using h
  exact hP

/-! The commits of NOT, AND and OR (R107 to R109), which the laws speak of. -/

section Bitwise

variable (rd : Reg) (a b : Operand) (s : State)

theorem exec_not_wrote_bits : ∃ t, exec (.not rd a) s = .next t ∧ WroteRegs s t [rd] ∧ t.status.c = s.status.c ∧
    (t.reg rd).toBits = ~~~(a.value s).toBits := exec_wrote_bits rfl (Wide.toBits_not _)

theorem exec_and_wrote_bits : ∃ t, exec (.and rd a b) s = .next t ∧ WroteRegs s t [rd] ∧ t.status.c = s.status.c ∧
    (t.reg rd).toBits = (a.value s).toBits &&& (b.value s).toBits := exec_wrote_bits rfl (Wide.toBits_and _ _)

theorem exec_or_wrote_bits : ∃ t, exec (.or rd a b) s = .next t ∧ WroteRegs s t [rd] ∧ t.status.c = s.status.c ∧
    (t.reg rd).toBits = (a.value s).toBits ||| (b.value s).toBits := exec_wrote_bits rfl (Wide.toBits_or _ _)

end Bitwise

/-! F of the comparisons, by the unsigned values (R111 to R116). -/

theorem flagEq_iff (a b : Wide) : flagEq a b = true ↔ a.toNat = b.toNat := by
  rw [Wide.toNat_eq_iff]
  obtain ⟨ah, al⟩ := a
  obtain ⟨bh, bl⟩ := b
  simp [flagEq]

theorem flagNe_iff (a b : Wide) : flagNe a b = true ↔ a.toNat ≠ b.toNat := by
  rw [Ne, ← flagEq_iff, Bool.not_eq_true, flagNe, Bool.not_eq_true', flagEq]

theorem flagLt_iff (a b : Wide) : flagLt a b = true ↔ a.toNat < b.toNat := sub128_borrow a b

theorem flagGt_iff (a b : Wide) : flagGt a b = true ↔ b.toNat < a.toNat := sub128_borrow b a

theorem flagLe_iff (a b : Wide) : flagLe a b = true ↔ a.toNat ≤ b.toNat := by
  rw [← Nat.not_lt, ← sub128_borrow, flagLe, Bool.not_eq_true', Bool.not_eq_true]

theorem flagGe_iff (a b : Wide) : flagGe a b = true ↔ b.toNat ≤ a.toNat := flagLe_iff b a

/-! The obligations. -/

/-- Settles O32, by the sum and the carry of the adder (R100) with no carry in. -/
theorem addWrapsAndSetsCarry : Obligations.AddWrapsAndSetsCarry := by
  intro rd a b s
  obtain ⟨t, hexec, hwrote, hreg, hc⟩ := exec_wrote_wideCarry (i := .add rd a b) (s := s) rfl
  refine ⟨opField_encode _, strictExec_unwritten_iff_operands rfl rfl s, t, hexec, hwrote, ?sum, ?carry⟩
  case sum =>
    rw [hreg]
    exact add128_sum _ _ false
  case carry =>
    rw [hc]
    exact add128_carry _ _ false

/-- Settles O33, by the difference and the borrow of the subtractor (R101). -/
theorem subWrapsAndSetsBorrow : Obligations.SubWrapsAndSetsBorrow := by
  intro rd a b s
  obtain ⟨t, hexec, hwrote, hreg, hc⟩ := exec_wrote_wideCarry (i := .sub rd a b) (s := s) rfl
  refine ⟨opField_encode _, strictExec_unwritten_iff_operands rfl rfl s, t, hexec, hwrote, ?difference, ?borrow⟩
  case difference =>
    rw [hreg]
    exact sub128_int _ _
  case borrow =>
    rw [hc]
    exact sub128_borrow _ _

/-- Settles O34, by the subtractor at 0. -/
theorem negIsZeroMinus : Obligations.NegIsZeroMinus := by
  intro rd a s
  obtain ⟨t, hexec, hwrote, hreg, hc⟩ := exec_wrote_wideCarry (i := .neg rd a) (s := s) rfl
  refine ⟨opField_encode _, strictExec_unwritten_iff_operandA rfl rfl s, t, hexec, hwrote, ?difference, ?borrow⟩
  case difference =>
    rw [hreg, sub128_int, Wide.toNat_zero, Int.natCast_zero, Int.zero_sub]
  case borrow =>
    rw [hc, sub128_borrow, Wide.toNat_zero, Nat.pos_iff_ne_zero]

/-- Settles O35: INC adds the carry in, DEC subtracts 1, and every value is below 2^128. -/
theorem incAndDecWrap : Obligations.IncAndDecWrap := by
  intro rd a s
  have hlt := (a.value s).toNat_lt
  refine ⟨?inc, ?dec⟩
  case inc =>
    obtain ⟨t, hexec, hwrote, hreg, hc⟩ := exec_wrote_wideCarry (i := .inc rd a) (s := s) rfl
    refine ⟨opField_encode _, strictExec_unwritten_iff_operandA rfl rfl s, t, hexec, hwrote, ?sum, ?carry⟩
    case sum =>
      rw [hreg, add128_sum, Wide.toNat_zero, Nat.add_zero, Bool.toNat_true]
    case carry =>
      rw [hc, add128_carry, Wide.toNat_zero, Nat.add_zero, Bool.toNat_true]
      omega
  case dec =>
    obtain ⟨t, hexec, hwrote, hreg, hc⟩ := exec_wrote_wideCarry (i := .dec rd a) (s := s) rfl
    refine ⟨opField_encode _, strictExec_unwritten_iff_operandA rfl rfl s, t, hexec, hwrote, ?difference, ?borrow⟩
    case difference =>
      rw [hreg, sub128_int, Wide.toNat_one, Int.natCast_one]
    case borrow =>
      rw [hc, sub128_borrow, Wide.toNat_one, Nat.lt_one_iff]

/-- Settles O36: each commits one value to RD, whose 128 bits are those of the two words. -/
theorem bitwiseCommandsActOnAllBits : Obligations.BitwiseCommandsActOnAllBits := by
  intro rd a b s
  exact ⟨⟨opField_encode _, opField_encode _, opField_encode _, opField_encode _⟩,
    ⟨strictExec_unwritten_iff_operandA rfl rfl s, strictExec_unwritten_iff_operands rfl rfl s,
      strictExec_unwritten_iff_operands rfl rfl s, strictExec_unwritten_iff_operands rfl rfl s⟩,
    exec_not_wrote_bits rd a s, exec_and_wrote_bits rd a b s, exec_or_wrote_bits rd a b s,
    exec_wrote_bits rfl (Wide.toBits_xor _ _)⟩

/-- Settles O37: each commits F alone, and F compares the values. -/
theorem comparisonsSetFByUnsignedValue : Obligations.ComparisonsSetFByUnsignedValue := by
  intro a b s
  refine ⟨⟨opField_encode _, opField_encode _, opField_encode _, opField_encode _, opField_encode _, opField_encode _⟩,
    ?unwritten, exec_wrote_flagF rfl (flagEq_iff _ _), exec_wrote_flagF rfl (flagNe_iff _ _),
    exec_wrote_flagF rfl (flagLt_iff _ _), exec_wrote_flagF rfl (flagLe_iff _ _),
    exec_wrote_flagF rfl (flagGt_iff _ _), exec_wrote_flagF rfl (flagGe_iff _ _)⟩
  case unwritten =>
    intro i hi
    have hoperands : i.operandA = some a ∧ i.operandB = some b := by
      simp only [List.mem_cons, List.not_mem_nil, or_false] at hi
      rcases hi with rfl | rfl | rfl | rfl | rfl | rfl <;> exact ⟨rfl, rfl⟩
    exact strictExec_unwritten_iff_operands hoperands.1 hoperands.2 s

/-! The laws (R117). -/

/-- R117 (a): SUB takes back what ADD put in RD. -/
theorem sub_undoes_add {rd rq : Reg} {a b : Operand} {s t u : State} (hadd : exec (.add rd a b) s = .next t)
    (hsub : exec (.sub rq (.reg rd) b) t = .next u) (hb : b.value t = b.value s) : u.reg rq = a.value s := by
  obtain ⟨-, hsum, -⟩ := of_exec_eq_next (addWrapsAndSetsCarry rd a b s).2.2 hadd
  obtain ⟨-, hdiff, -⟩ := of_exec_eq_next (subWrapsAndSetsBorrow rq (.reg rd) b t).2.2 hsub
  have ha := (a.value s).toNat_lt
  have hrd : Operand.value (.reg rd) t = t.reg rd := rfl
  rw [hb, hrd, hsum] at hdiff
  apply Wide.toNat_inj
  omega

/-- R117 (b) and (c): the commands on the complement of A. -/
theorem bitwise_of_not {rd : Reg} (rq : Reg) {a : Operand} {s t : State} (hnot : exec (.not rd a) s = .next t)
    (ha : a.value t = a.value s) :
    (∃ u, exec (.not rq (.reg rd)) t = .next u ∧ u.reg rq = a.value s) ∧
    (∃ u, exec (.and rq a (.reg rd)) t = .next u ∧ u.reg rq = .zero) ∧
    ∃ u, exec (.or rq a (.reg rd)) t = .next u ∧ u.reg rq = .ones := by
  have hrd : (Operand.value (.reg rd) t).toBits = ~~~(a.value s).toBits :=
    (of_exec_eq_next (exec_not_wrote_bits rd a s) hnot).2.2
  refine ⟨?not, ?and, ?or⟩
  case not =>
    obtain ⟨u, hu, -, -, hbits⟩ := exec_not_wrote_bits rq (.reg rd) t
    rw [hrd, BitVec.not_not] at hbits
    exact ⟨u, hu, Wide.toBits_inj hbits⟩
  case and =>
    obtain ⟨u, hu, -, -, hbits⟩ := exec_and_wrote_bits rq a (.reg rd) t
    rw [ha, hrd, BitVec.and_not_self] at hbits
    exact ⟨u, hu, Wide.toBits_inj hbits⟩
  case or =>
    obtain ⟨u, hu, -, -, hbits⟩ := exec_or_wrote_bits rq a (.reg rd) t
    rw [ha, hrd, BitVec.or_not_self] at hbits
    exact ⟨u, hu, Wide.toBits_inj hbits⟩

/-- R117 (d), of the flags: they decide the order of two numbers, of which exactly one of `<`, `=` and `>` holds. -/
theorem comparison_flags_of_order {x y : Nat} {eq ne lt le gt ge : Bool} (heq : eq = true ↔ x = y)
    (hne : ne = true ↔ x ≠ y) (hlt : lt = true ↔ x < y) (hle : le = true ↔ x ≤ y) (hgt : gt = true ↔ y < x)
    (hge : ge = true ↔ y ≤ x) :
    lt.toNat + eq.toNat + gt.toNat = 1 ∧ le = (lt || eq) ∧ ge = (gt || eq) ∧ ne = !eq := by
  refine ⟨?one, ?le, ?ge, ?ne⟩
  case one =>
    rcases Nat.lt_trichotomy x y with h | h | h
    · rw [hlt.mpr h, Bool.eq_false_iff.mpr (heq.not.mpr h.ne), Bool.eq_false_iff.mpr (hgt.not.mpr h.not_gt)]
      rfl
    · rw [heq.mpr h, Bool.eq_false_iff.mpr (hlt.not.mpr h.not_lt), Bool.eq_false_iff.mpr (hgt.not.mpr h.not_gt)]
      rfl
    · rw [hgt.mpr h, Bool.eq_false_iff.mpr (heq.not.mpr h.ne'), Bool.eq_false_iff.mpr (hlt.not.mpr h.not_gt)]
      rfl
  case le => rw [Bool.eq_iff_iff, Bool.or_eq_true, hle, hlt, heq, Nat.le_iff_lt_or_eq]
  case ge => rw [Bool.eq_iff_iff, Bool.or_eq_true, hge, hgt, heq, Nat.le_iff_lt_or_eq, eq_comm (a := y)]
  case ne => rw [Bool.eq_iff_iff, Bool.not_eq_true', hne, ← Bool.not_eq_true, heq]

/-- Settles O38, by the values the commands commit (O32, O33), their bits (O36) and the order of the values (O37). -/
theorem additiveFamilyLaws : Obligations.AdditiveFamilyLaws := by
  refine ⟨fun _ _ _ _ _ _ _ => sub_undoes_add, fun _ rq _ _ _ => bitwise_of_not rq, ?comparisons⟩
  case comparisons =>
    intro a b s e n l le g ge he hn hl hle hg hge
    obtain ⟨-, -, ceq, cne, clt, cle, cgt, cge⟩ := comparisonsSetFByUnsignedValue a b s
    exact comparison_flags_of_order (of_exec_eq_next ceq he).2 (of_exec_eq_next cne hn).2 (of_exec_eq_next clt hl).2
      (of_exec_eq_next cle hle).2 (of_exec_eq_next cgt hg).2 (of_exec_eq_next cge hge).2

end Sys2Proof.Machine

/-! SUPPORT and PROOFS. Multiplication (42_multiply.md): the partial products add up to the product modulo `2^128`, from which
the commit of MUL and the laws of the multiplier follow. -/

namespace Sys2Proof.Machine

/-- R131, R132: the product of the high words has weight `2^128`, and so has what the sum of the high partial products loses. -/
theorem mul128_product (a b : Wide) : (mul128 a b).toNat = a.toNat * b.toNat % 2 ^ 128 := by
  have hlow := mul64x128_exact a.lo b.lo
  have hexpand : a.toNat * b.toNat = 2 ^ 128 * (a.hi.toNat * b.hi.toNat) +
      2 ^ 64 * (a.hi.toNat * b.lo.toNat + a.lo.toNat * b.hi.toNat) + a.lo.toNat * b.lo.toNat := by
    rw [Wide.toNat, Wide.toNat]
    ring
  rw [hexpand, ← hlow]
  simp only [mul128, Wide.toNat, BitVec.toNat_add, BitVec.toNat_mul]
  omega

/-- Settles O39: RD is the one thing MUL commits, and its value is that of the multiplier. -/
theorem mulTruncatesTheProduct : Obligations.MulTruncatesTheProduct := by
  intro rd a b s
  obtain ⟨t, hexec, hwrote, hc, hreg⟩ := exec_wrote_wide (i := .mul rd a b) (s := s) rfl
  refine ⟨opField_encode _, strictExec_unwritten_iff_operands rfl rfl s, t, hexec, hwrote, hc, ?_⟩
  rw [hreg]
  exact mul128_product _ _

/-! The laws (R132): those of the product of the numbers, which reduction modulo `2^128` keeps. -/

theorem mul128_comm (a b : Wide) : mul128 a b = mul128 b a :=
  Wide.toNat_inj (by rw [mul128_product, mul128_product, Nat.mul_comm])

theorem mul128_assoc (a b c : Wide) : mul128 (mul128 a b) c = mul128 a (mul128 b c) := by
  apply Wide.toNat_inj
  simp only [mul128_product]
  rw [Nat.mod_mul_mod, Nat.mul_mod_mod, Nat.mul_assoc]

theorem mul128_add128 (a b c : Wide) :
    mul128 a (add128 b c false).1 = (add128 (mul128 a b) (mul128 a c) false).1 := by
  apply Wide.toNat_inj
  simp only [mul128_product, add128_sum, Bool.toNat_false, Nat.add_zero]
  rw [Nat.mul_mod_mod, ← Nat.add_mod, Nat.mul_add]

theorem mul128_one (a : Wide) : mul128 a .one = a :=
  Wide.toNat_inj (by rw [mul128_product, Wide.toNat_one, Nat.mul_one, Nat.mod_eq_of_lt a.toNat_lt])

theorem mul128_zero (a : Wide) : mul128 a .zero = .zero :=
  Wide.toNat_inj (by rw [mul128_product, Wide.toNat_zero, Nat.mul_zero, Nat.zero_mod])

/-- Settles O40, law by law. -/
theorem multiplierLaws : Obligations.MultiplierLaws := fun a b c =>
  ⟨mul128_comm a b, mul128_assoc a b c, mul128_add128 a b c, mul128_one a, mul128_zero a, mul128_product a b⟩

end Sys2Proof.Machine

/-! SUPPORT and PROOFS. Division (43_divide.md): the contract and its one solution, the two algorithms the spec permits, and
the commands DIV, MOD and DIVMOD. -/

namespace Sys2Proof.Machine

/-! The contract (R140). -/

theorem divmod128_contract (n : Wide) {d : Wide} (hd : d.toNat ≠ 0) :
    n.toNat = (divmod128 n d).1.toNat * d.toNat + (divmod128 n d).2.toNat ∧ (divmod128 n d).2.toNat < d.toNat := by
  rw [divmod128_quotient, divmod128_remainder]
  exact ⟨(Nat.div_add_mod' _ _).symm, Nat.mod_lt _ (Nat.pos_of_ne_zero hd)⟩

/-- A pair of the values of the quotient and of the remainder is the contract's pair. -/
theorem eq_divmod128 {n d q r : Wide} (hq : q.toNat = n.toNat / d.toNat) (hr : r.toNat = n.toNat % d.toNat) :
    (q, r) = divmod128 n d :=
  Prod.ext (Wide.toNat_inj (hq.trans (divmod128_quotient n d).symm))
    (Wide.toNat_inj (hr.trans (divmod128_remainder n d).symm))

/-- Settles O41, by the uniqueness of quotient and remainder. -/
theorem divisionContractHasOneSolution : Obligations.DivisionContractHasOneSolution := by
  intro n d hd
  obtain ⟨hsum, hlt⟩ := divmod128_contract n hd
  refine ⟨hsum, hlt, fun q r hn hr => ?_⟩
  have hn' : r.toNat + d.toNat * q.toNat = n.toNat := by rw [hn, Nat.mul_comm, Nat.add_comm]
  obtain ⟨hdiv, hmod⟩ := (Nat.div_mod_unique (Nat.pos_of_ne_zero hd)).mpr ⟨hn', hr⟩
  exact eq_divmod128 hdiv.symm hmod.symm

/-! The shifter on values (44_shift.md R152, R153). -/

theorem shl128_product (a : Wide) (n : Nat) : (shl128 a n).toNat = a.toNat * 2 ^ n % 2 ^ 128 := by
  rw [← Wide.toNat_toBits, shl128_toBits, BitVec.toNat_shiftLeft, Wide.toNat_toBits, Nat.shiftLeft_eq]

theorem shr128_quotient (a : Wide) (n : Nat) : (shr128 a n).toNat = a.toNat / 2 ^ n := by
  rw [← Wide.toNat_toBits, shr128_toBits, BitVec.toNat_ushiftRight, Wide.toNat_toBits, Nat.shiftRight_eq_div_pow]

/-- A 1 in bit 0 of an even value adds 1. -/
theorem toNat_or_one {x : Wide} (heven : x.toNat % 2 = 0) : (⟨x.hi, x.lo ||| 1⟩ : Wide).toNat = x.toNat + 1 := by
  have hlo : x.lo.toNat = 2 ^ 1 * (x.lo.toNat / 2) := by
    unfold Wide.toNat at heven
    omega
  have hor : (x.lo ||| 1).toNat = x.lo.toNat + 1 := by
    rw [BitVec.toNat_or, hlo]
    exact (Nat.two_pow_add_eq_or_of_lt (by decide) _).symm
  rw [Wide.toNat, hor, Wide.toNat, Nat.add_assoc]

/-- The quotient with a 0 in its next bit, if that fits. -/
theorem toNat_shl128_one {q : Wide} (h : 2 * q.toNat < 2 ^ 128) : (shl128 q 1).toNat = 2 * q.toNat := by
  rw [shl128_product, Nat.pow_one, Nat.mul_comm, Nat.mod_eq_of_lt h]

/-- The quotient with a 1 in its next bit, if that fits. -/
theorem toNat_shl128_one_or_one {q : Wide} (h : 2 * q.toNat < 2 ^ 128) :
    (⟨(shl128 q 1).hi, (shl128 q 1).lo ||| 1⟩ : Wide).toNat = 2 * q.toNat + 1 := by
  have hshift := toNat_shl128_one h
  rw [toNat_or_one (by rw [hshift, Nat.mul_mod_right]), hshift]

/-- The subtractor where nothing is borrowed (41_additive_bitwise.md R101). -/
theorem sub128_of_le {x y : Wide} (h : y.toNat ≤ x.toNat) : (sub128 x y).1.toNat = x.toNat - y.toNat := by
  have hx := x.toNat_lt
  rw [sub128_diff]
  omega

/-! The reference algorithm (R141). -/

namespace Divider

/-- What the divider holds with `left` iterations to go: quotient and remainder of the division by `d · 2^left`, and, while
an iteration is to come, the divisor of the next one. -/
structure Divides (v : Divider) (n d : Wide) : Prop where
  q : v.q.toNat = n.toNat / (d.toNat * 2 ^ v.left)
  r : v.r.toNat = n.toNat % (d.toNat * 2 ^ v.left)
  dd : v.left ≠ 0 → v.dd.toNat = d.toNat * 2 ^ (v.left - 1)

/-! The start: the divisor's leading 1 stands under the numerator's. -/

section Start

variable {n d : Wide}

theorem start_of_lt (h : n.toNat < d.toNat) : start n d = ⟨.zero, n, d, 0⟩ := if_pos h

theorem log2_le_of_le (hd : d.toNat ≠ 0) (h : d.toNat ≤ n.toNat) : Nat.log2 d.toNat ≤ Nat.log2 n.toNat :=
  (Nat.le_log2 (by omega)).mpr ((Nat.log2_self_le hd).trans h)

/-- The alignment is the distance of the leading 1s. -/
theorem start_of_le (hd : d.toNat ≠ 0) (h : d.toNat ≤ n.toNat) :
    start n d = ⟨.zero, n, shl128 d (Nat.log2 n.toNat - Nat.log2 d.toNat), Nat.log2 n.toNat - Nat.log2 d.toNat + 1⟩ := by
  have hn : n.toNat ≠ 0 := by omega
  have hclz : clz128 d - clz128 n = Nat.log2 n.toNat - Nat.log2 d.toNat := by
    have hn127 := log2_le_127 n
    rw [clz128, if_neg hd, clz128, if_neg hn]
    omega
  rw [start, if_neg (Nat.not_lt.mpr h), hclz]

/-- The aligned divisor loses no bit: its leading 1 is where the numerator's is. -/
theorem start_dd (hd : d.toNat ≠ 0) (h : d.toNat ≤ n.toNat) :
    (start n d).dd.toNat = d.toNat * 2 ^ ((start n d).left - 1) := by
  have hlog : Nat.log2 d.toNat ≤ Nat.log2 n.toNat := log2_le_of_le hd h
  have hfits : d.toNat * 2 ^ (Nat.log2 n.toNat - Nat.log2 d.toNat) < 2 ^ 128 :=
    calc d.toNat * 2 ^ (Nat.log2 n.toNat - Nat.log2 d.toNat)
        < 2 ^ (Nat.log2 d.toNat + 1) * 2 ^ (Nat.log2 n.toNat - Nat.log2 d.toNat) :=
          Nat.mul_lt_mul_of_pos_right Nat.lt_log2_self (Nat.two_pow_pos _)
      _ = 2 ^ (Nat.log2 n.toNat + 1) := by rw [← Nat.pow_add]; congr 1; omega
      _ ≤ 2 ^ 128 := Nat.pow_le_pow_right (by decide) (Nat.succ_le_succ (log2_le_127 n))
  rw [start_of_le hd h]
  dsimp only
  rw [shl128_product, Nat.mod_eq_of_lt hfits, Nat.add_sub_cancel]

/-- As many iterations are to come as bring the numerator below the divisor, so that the quotient has a bit for each. -/
theorem lt_mul_two_pow_start_left (hd : d.toNat ≠ 0) : n.toNat < d.toNat * 2 ^ (start n d).left := by
  obtain h | h := Nat.lt_or_ge n.toNat d.toNat
  · rw [start_of_lt h]
    simpa using h
  · have hlog : Nat.log2 d.toNat ≤ Nat.log2 n.toNat := log2_le_of_le hd h
    rw [start_of_le hd h]
    calc n.toNat < 2 ^ (Nat.log2 n.toNat + 1) := Nat.lt_log2_self
      _ = 2 ^ Nat.log2 d.toNat * 2 ^ (Nat.log2 n.toNat - Nat.log2 d.toNat + 1) := by
          rw [← Nat.pow_add]; congr 1; omega
      _ ≤ d.toNat * 2 ^ (Nat.log2 n.toNat - Nat.log2 d.toNat + 1) :=
          Nat.mul_le_mul_right _ (Nat.log2_self_le hd)

theorem start_q (n d : Wide) : (start n d).q = .zero := by
  unfold start
  split <;> rfl

theorem start_r (n d : Wide) : (start n d).r = n := by
  unfold start
  split <;> rfl

/-- The invariant at the start: the numerator is below `d · 2^left`, so the quotient is 0 and the remainder is the numerator. -/
theorem start_divides (hd : d.toNat ≠ 0) : (start n d).Divides n d where
  q := by rw [start_q, Wide.toNat_zero, Nat.div_eq_of_lt (lt_mul_two_pow_start_left hd)]
  r := by rw [start_r, Nat.mod_eq_of_lt (lt_mul_two_pow_start_left hd)]
  dd hleft := by
    refine start_dd hd (Nat.le_of_not_lt fun h => hleft ?_)
    rw [start_of_lt h]

end Start

/-! An iteration. -/

section Iterate

variable {v : Divider}

theorem iterate_of_done (h : v.left = 0) : v.iterate = v := if_pos h

theorem iterate_of_le (h : v.left ≠ 0) (hle : v.dd.toNat ≤ v.r.toNat) :
    v.iterate = ⟨⟨(shl128 v.q 1).hi, (shl128 v.q 1).lo ||| 1⟩, (sub128 v.r v.dd).1, shr128 v.dd 1, v.left - 1⟩ := by
  rw [iterate, if_neg h]
  exact if_pos hle

theorem iterate_of_lt (h : v.left ≠ 0) (hlt : v.r.toNat < v.dd.toNat) :
    v.iterate = ⟨shl128 v.q 1, v.r, shr128 v.dd 1, v.left - 1⟩ := by
  rw [iterate, if_neg h]
  exact if_neg (Nat.not_le.mpr hlt)

end Iterate

/-- From the division by `2 · u` to that by `u`: the remainder decides the quotient's next bit. -/
theorem div_mod_of_double {n u q r : Nat} (hu : 0 < u) (hq : q = n / (2 * u)) (hr : r = n % (2 * u)) :
    (r < u → n / u = 2 * q ∧ n % u = r) ∧ (u ≤ r → n / u = 2 * q + 1 ∧ n % u = r - u) := by
  have hn : u * (2 * q) + r = n := by rw [hq, hr, ← Nat.mul_assoc, Nat.mul_comm u, Nat.div_add_mod]
  have hlt : r < 2 * u := hr ▸ Nat.mod_lt _ (by omega)
  constructor
  · intro hru
    exact (Nat.div_mod_unique hu).mpr ⟨by omega, hru⟩
  · intro hru
    exact (Nat.div_mod_unique hu).mpr ⟨by rw [Nat.mul_add]; omega, by omega⟩

/-- One iteration more to go doubles the divisor. -/
theorem mul_two_pow_eq_double (d : Nat) {k : Nat} (hk : k ≠ 0) : d * 2 ^ k = 2 * (d * 2 ^ (k - 1)) := by
  rw [← Nat.two_pow_pred_mul_two (Nat.pos_of_ne_zero hk), ← Nat.mul_assoc, Nat.mul_comm]

/-- The aligned divisor is halved for the next iteration; the invariant then asks for the quotient and remainder of the division
by that half. -/
theorem Divides.next {v : Divider} {n d : Wide} (h : v.Divides n d) (hleft : v.left ≠ 0) {q r : Wide}
    (hq : q.toNat = n.toNat / (d.toNat * 2 ^ (v.left - 1))) (hr : r.toNat = n.toNat % (d.toNat * 2 ^ (v.left - 1))) :
    (⟨q, r, shr128 v.dd 1, v.left - 1⟩ : Divider).Divides n d where
  q := hq
  r := hr
  dd hmore := by
    rw [shr128_quotient, h.dd hleft, mul_two_pow_eq_double _ hmore, Nat.pow_one]
    exact Nat.mul_div_cancel_left _ (by decide)

/-- An iteration keeps the invariant: the remainder decides the bit that the quotient gets for the halved divisor. -/
theorem Divides.iterate {v : Divider} {n d : Wide} (h : v.Divides n d) (hd : d.toNat ≠ 0) : v.iterate.Divides n d := by
  by_cases hleft : v.left = 0
  · rwa [iterate_of_done hleft]
  have hu : 0 < d.toNat * 2 ^ (v.left - 1) := Nat.mul_pos (Nat.pos_of_ne_zero hd) (Nat.two_pow_pos _)
  have hdouble := mul_two_pow_eq_double d.toNat hleft
  obtain ⟨hbit0, hbit1⟩ := div_mod_of_double hu (hdouble ▸ h.q) (hdouble ▸ h.r)
  have hfits : n.toNat / (d.toNat * 2 ^ (v.left - 1)) < 2 ^ 128 := Nat.lt_of_le_of_lt (Nat.div_le_self _ _) n.toNat_lt
  obtain hlt | hle := Nat.lt_or_ge v.r.toNat v.dd.toNat
  · obtain ⟨hdiv, hmod⟩ := hbit0 (h.dd hleft ▸ hlt)
    rw [iterate_of_lt hleft hlt]
    refine h.next hleft ?_ hmod.symm
    rw [toNat_shl128_one (hdiv ▸ hfits), hdiv]
  · obtain ⟨hdiv, hmod⟩ := hbit1 (h.dd hleft ▸ hle)
    rw [iterate_of_le hleft hle]
    refine h.next hleft ?_ ?_
    · rw [toNat_shl128_one_or_one (by omega), hdiv]
    · rw [sub128_of_le hle, h.dd hleft, hmod]

/-! A run of iterations. -/

theorem Divides.run {n d : Wide} (hd : d.toNat ≠ 0) (k : Nat) {v : Divider} (h : v.Divides n d) :
    (run k v).Divides n d := by
  induction k generalizing v with
  | zero => exact h
  | succ k ih => exact ih (h.iterate hd)

theorem iterate_left (v : Divider) : v.iterate.left = v.left - 1 := by
  by_cases hleft : v.left = 0
  · rw [iterate_of_done hleft, hleft]
  obtain hlt | hle := Nat.lt_or_ge v.r.toNat v.dd.toNat
  · rw [iterate_of_lt hleft hlt]
  · rw [iterate_of_le hleft hle]

theorem run_left (k : Nat) (v : Divider) : (run k v).left = v.left - k := by
  induction k generalizing v with
  | zero => rfl
  | succ k ih => rw [run, ih, iterate_left, Nat.sub_sub, Nat.add_comm]

/-- What the divider holds after `k` iterations from the start. -/
theorem run_start_divides (n : Wide) {d : Wide} (hd : d.toNat ≠ 0) (k : Nat) : (run k (start n d)).Divides n d :=
  (start_divides hd).run hd k

end Divider

/-- With no iteration left the divider holds quotient and remainder of the division by the divisor. -/
theorem divmodRef_eq_divmod128 (n : Wide) {d : Wide} (hd : d.toNat ≠ 0) : divmodRef n d = divmod128 n d := by
  obtain ⟨hq, hr, -⟩ := Divider.run_start_divides n hd (Divider.start n d).left
  rw [Divider.run_left, Nat.sub_self, Nat.pow_zero, Nat.mul_one] at hq hr
  exact eq_divmod128 hq hr

/-- Settles O42: what the divider holds is quotient and remainder of a division, from the start to the last iteration. -/
theorem referenceDividerMeetsTheContract : Obligations.ReferenceDividerMeetsTheContract := by
  intro n d hd
  refine ⟨divmodRef_eq_divmod128 n hd, Divider.start_left_le n d hd, Divider.start_dd hd, fun k => ?_⟩
  obtain ⟨hq, hr, -⟩ := Divider.run_start_divides n hd k
  refine ⟨hr ▸ Nat.mod_le _ _, hq ▸ ?_⟩
  calc n.toNat / (d.toNat * 2 ^ (Divider.run k (Divider.start n d)).left)
      ≤ n.toNat / d.toNat := Nat.div_le_div_left (Nat.le_mul_of_pos_right _ (Nat.two_pow_pos _)) (Nat.pos_of_ne_zero hd)
    _ < 2 ^ (Divider.start n d).left := Nat.div_lt_of_lt_mul (Divider.lt_mul_two_pow_start_left hd)

/-! The 64-bit-divisor path (R142). -/

theorem toNat_of_words {hi lo : Nat} (hhi : hi < 2 ^ 64) (hlo : lo < 2 ^ 64) :
    (⟨BitVec.ofNat 64 hi, BitVec.ofNat 64 lo⟩ : Wide).toNat = 2 ^ 64 * hi + lo := by
  rw [Wide.toNat, BitVec.toNat_ofNat, BitVec.toNat_ofNat, Nat.mod_eq_of_lt hhi, Nat.mod_eq_of_lt hlo]

/-- Settles O43: the remainder of the high word stands before the low word, so both quotients fit in a word, and they are the
words of the quotient. -/
theorem wordDivisorPathMeetsTheContract : Obligations.WordDivisorPathMeetsTheContract := by
  intro n d hhi hlo
  have hd : 0 < d.lo.toNat := Nat.pos_of_ne_zero fun h => hlo (BitVec.eq_of_toNat_eq h)
  have hdval : d.toNat = d.lo.toNat := by simp [Wide.toNat, hhi]
  have hlow : 2 ^ 64 * (n.hi.toNat % d.lo.toNat) + n.lo.toNat < d.lo.toNat * 2 ^ 64 := by
    have hrh := Nat.mod_lt n.hi.toNat hd
    have hnlo := n.lo.isLt
    omega
  have hn : n.toNat = d.lo.toNat * (2 ^ 64 * (n.hi.toNat / d.lo.toNat)) +
      (2 ^ 64 * (n.hi.toNat % d.lo.toNat) + n.lo.toNat) := by
    rw [Nat.mul_left_comm, ← Nat.add_assoc, ← Nat.mul_add, Nat.div_add_mod, Wide.toNat]
  have hqh : n.hi.toNat / d.lo.toNat < 2 ^ 64 := Nat.lt_of_le_of_lt (Nat.div_le_self _ _) n.hi.isLt
  have hql := Nat.div_lt_of_lt_mul hlow
  have hr : (2 ^ 64 * (n.hi.toNat % d.lo.toNat) + n.lo.toNat) % d.lo.toNat < 2 ^ 64 :=
    (Nat.mod_lt _ hd).trans d.lo.isLt
  refine eq_divmod128 ?quotient ?remainder
  case quotient =>
    rw [hdval, hn, Nat.mul_add_div hd]
    exact toNat_of_words hqh hql
  case remainder =>
    rw [hdval, hn, Nat.mul_add_mod]
    exact (toNat_of_words (by decide) hr).trans (Nat.zero_add _)

/-! The commands (R143 to R146). -/

/-- A command commits its effect, whichever that is found to be. -/
theorem exec_of_effect {i : Instr} {s : State} {e : Effect} (h : effectIn i s = e) : exec i s = .next (s.perform e) :=
  h ▸ exec_eq_perform i s

/-- A command that takes a fault, and commits nothing else. -/
theorem exec_faulted {i : Instr} {s : State} {code : FCode} (h : exec i s = .next (s.perform (.fault code))) :
    ∃ t, exec i s = .next t ∧ Faulted s t code :=
  ⟨_, h, raise_faulted s code⟩

/-- A command that commits values to RD and RE, which differ, and nothing else. -/
theorem exec_wrote_widePair {i : Instr} {s : State} {rd re : Reg} {v u : Wide} (hne : rd ≠ re)
    (h : exec i s = .next (s.perform (.widePair rd v re u))) :
    ∃ t, exec i s = .next t ∧ WroteRegs s t [rd, re] ∧ t.status.c = s.status.c ∧ t.reg rd = v ∧ t.reg re = u :=
  ⟨_, h, perform_widePair_wrote s rd v re u, rfl, by simp [hne], by simp⟩

section Commands

variable {rd re : Reg} {a b : Operand} {s : State}

theorem exec_div_of_zero (hb : (b.value s).toNat = 0) : ∃ t, exec (.div rd a b) s = .next t ∧ Faulted s t .divZero :=
  exec_faulted (exec_of_effect (if_pos hb))

theorem exec_mod_of_zero (hb : (b.value s).toNat = 0) : ∃ t, exec (.mod rd a b) s = .next t ∧ Faulted s t .divZero :=
  exec_faulted (exec_of_effect (if_pos hb))

theorem exec_div_of_ne_zero (hb : (b.value s).toNat ≠ 0) :
    ∃ t, exec (.div rd a b) s = .next t ∧ WroteRegs s t [rd] ∧ t.status.c = s.status.c ∧
      t.reg rd = (divmod128 (a.value s) (b.value s)).1 :=
  exec_wrote_wide (exec_of_effect (if_neg hb))

theorem exec_mod_of_ne_zero (hb : (b.value s).toNat ≠ 0) :
    ∃ t, exec (.mod rd a b) s = .next t ∧ WroteRegs s t [rd] ∧ t.status.c = s.status.c ∧
      t.reg rd = (divmod128 (a.value s) (b.value s)).2 :=
  exec_wrote_wide (exec_of_effect (if_neg hb))

theorem exec_divmod_of_same (h : rd = re) : ∃ t, exec (.divmod rd re a b) s = .next t ∧ Faulted s t .illegal :=
  exec_faulted (exec_of_effect (if_pos h))

theorem exec_divmod_of_zero (hne : rd ≠ re) (hb : (b.value s).toNat = 0) :
    ∃ t, exec (.divmod rd re a b) s = .next t ∧ Faulted s t .divZero :=
  exec_faulted (exec_of_effect ((if_neg hne).trans (if_pos hb)))

theorem exec_divmod_of_ne_zero (hne : rd ≠ re) (hb : (b.value s).toNat ≠ 0) :
    ∃ t, exec (.divmod rd re a b) s = .next t ∧ WroteRegs s t [rd, re] ∧ t.status.c = s.status.c ∧
      t.reg rd = (divmod128 (a.value s) (b.value s)).1 ∧ t.reg re = (divmod128 (a.value s) (b.value s)).2 :=
  exec_wrote_widePair hne (exec_of_effect ((if_neg hne).trans (if_neg hb)))

end Commands

/-- No word decodes to DIVMOD with RD = RE (30_encoding.md R57). -/
theorem decode_ne_divmod_same (w : BitVec 32) (rd : Reg) (a b : Operand) : decode w ≠ .command (.divmod rd rd a b) := by
  intro h
  obtain ⟨hwf, -⟩ := (decode_eq_command_iff w _).mp h
  simp [Instr.wellFormed] at hwf

/-- Settles O44, by what each commits for a divisor of 0 and for another. -/
theorem divAndModMeetTheContract : Obligations.DivAndModMeetTheContract := by
  intro rd a b s
  refine ⟨⟨opField_encode _, opField_encode _⟩,
    ⟨strictExec_unwritten_iff_operands rfl rfl s, strictExec_unwritten_iff_operands rfl rfl s⟩, fun hb => ⟨?div, ?mod⟩,
    fun hb => ⟨exec_div_of_zero hb, exec_mod_of_zero hb⟩⟩
  case div =>
    obtain ⟨t, hexec, hwrote, hc, hreg⟩ := exec_div_of_ne_zero (rd := rd) (a := a) hb
    exact ⟨t, hexec, hwrote, hc, hreg ▸ divmod128_quotient _ _⟩
  case mod =>
    obtain ⟨t, hexec, hwrote, hc, hreg⟩ := exec_mod_of_ne_zero (rd := rd) (a := a) hb
    exact ⟨t, hexec, hwrote, hc, hreg ▸ divmod128_remainder _ _⟩

/-- Settles O45, by what DIVMOD commits in each case, and the decoder's refusal of RD = RE. -/
theorem divmodWritesBothResults : Obligations.DivmodWritesBothResults := by
  intro rd re a b s
  refine ⟨opField_encode _, fun _ => strictExec_unwritten_iff_operands rfl rfl s, fun hne hb => ?_, exec_divmod_of_zero,
    fun heq => ⟨exec_divmod_of_same heq, fun w => heq ▸ decode_ne_divmod_same w rd a b⟩⟩
  obtain ⟨t, hexec, hwrote, hc, hq, hr⟩ := exec_divmod_of_ne_zero (a := a) hne hb
  exact ⟨t, hexec, hwrote, hc, hq ▸ divmod128_quotient _ _, hr ▸ divmod128_remainder _ _⟩

/-- Settles O46: DIVMOD commits the contract's pair (R140), DIV and MOD each one part of it. -/
theorem divisionIdentity : Obligations.DivisionIdentity := by
  intro rd re a b s tq tr td hb hne hdiv hmod hdivmod
  obtain ⟨-, -, hq⟩ := of_exec_eq_next (exec_div_of_ne_zero hb) hdiv
  obtain ⟨-, -, hr⟩ := of_exec_eq_next (exec_mod_of_ne_zero hb) hmod
  obtain ⟨-, -, hq', hr'⟩ := of_exec_eq_next (exec_divmod_of_ne_zero hne hb) hdivmod
  obtain ⟨hsum, hlt⟩ := divmod128_contract (a.value s) hb
  rw [hq, hr]
  exact ⟨hsum.symm, hlt, hq', hr'⟩

end Sys2Proof.Machine

/-! SUPPORT and PROOFS. Shifts (44_shift.md): the commands SHL and SHR, whose datapath acts on the value as multiplication and
division by a power of two, and the laws of the shifter. -/

namespace Sys2Proof.Machine

/-! The commands (R150, R152, R153). -/

/-- R150: a command whose effect is that of a shift by `n` commits `v` to RD, and nothing else, for a count below 128; from
128 on it takes SHIFT_RANGE. `m` is the value of `v`. -/
theorem exec_of_shift_effect {i : Instr} {s : State} {rd : Reg} {n m : Nat} {v : Wide}
    (h : effectIn i s = if 128 ≤ n then .fault .shiftRange else .wide rd v) (hv : v.toNat = m) :
    (n < 128 → ∃ t, exec i s = .next t ∧ WroteRegs s t [rd] ∧ t.status.c = s.status.c ∧ (t.reg rd).toNat = m) ∧
    (128 ≤ n → ∃ t, exec i s = .next t ∧ Faulted s t .shiftRange) := by
  refine ⟨fun hn => ?shifted, fun hn => ?outOfRange⟩
  case shifted =>
    rw [if_neg (Nat.not_le.mpr hn)] at h
    obtain ⟨t, hexec, hwrote, hc, hreg⟩ := exec_wrote_wide (exec_of_effect h)
    exact ⟨t, hexec, hwrote, hc, hreg ▸ hv⟩
  case outOfRange =>
    rw [if_pos hn] at h
    exact exec_faulted (exec_of_effect h)

/-- Settles O47: the left shift of the datapath is the product. -/
theorem shlMultipliesByPowerOfTwo : Obligations.ShlMultipliesByPowerOfTwo := fun _ _ _ s =>
  ⟨opField_encode _, strictExec_unwritten_iff_operands rfl rfl s, exec_of_shift_effect rfl (shl128_product _ _)⟩

/-- Settles O48: the right shift of the datapath is the quotient. -/
theorem shrDividesByPowerOfTwo : Obligations.ShrDividesByPowerOfTwo := fun _ _ _ s =>
  ⟨opField_encode _, strictExec_unwritten_iff_operands rfl rfl s, exec_of_shift_effect rfl (shr128_quotient _ _)⟩

/-! The laws (R154). Shifting by 0 and the product are laws of the value; right after left is one of the 128 bits. -/

theorem shl128_zero (a : Wide) : shl128 a 0 = a :=
  Wide.toNat_inj (by rw [shl128_product, Nat.pow_zero, Nat.mul_one, Nat.mod_eq_of_lt a.toNat_lt])

theorem shr128_zero (a : Wide) : shr128 a 0 = a :=
  Wide.toNat_inj (by rw [shr128_quotient, Nat.pow_zero, Nat.div_one])

/-- At the word boundary the low word moves up whole (R151). -/
theorem shl128_word (a : Wide) : shl128 a 64 = ⟨a.lo, 0⟩ := by
  rw [shl128, if_pos (Nat.le_refl 64), Nat.sub_self, BitVec.shiftLeft_zero]

/-- At the word boundary the high word moves down whole (R151). -/
theorem shr128_word (a : Wide) : shr128 a 64 = ⟨0, a.hi⟩ := by
  rw [shr128, if_pos (Nat.le_refl 64), Nat.sub_self, BitVec.ushiftRight_zero]

theorem toBits_ones : Wide.ones.toBits = BitVec.allOnes 128 := by decide

/-- Right after left keeps the bits that the left shift does not push out. -/
theorem ushiftRight_shiftLeft {w : Nat} (x : BitVec w) (n : Nat) : x <<< n >>> n = x &&& BitVec.allOnes w >>> n := by
  apply BitVec.eq_of_getLsbD_eq
  intro i _
  have hkept : ¬ n + i < n := Nat.not_lt.mpr (Nat.le_add_right n i)
  rw [BitVec.getLsbD_ushiftRight, BitVec.getLsbD_shiftLeft, BitVec.getLsbD_and, BitVec.getLsbD_ushiftRight,
    BitVec.getLsbD_allOnes, decide_eq_false hkept, Bool.not_false, Bool.and_true, Nat.add_sub_cancel_left, Bool.and_comm]

theorem toBits_shr128_shl128 (a : Wide) (n : Nat) :
    (shr128 (shl128 a n) n).toBits = a.toBits &&& (shr128 .ones n).toBits := by
  rw [shr128_toBits, shl128_toBits, shr128_toBits, toBits_ones, ushiftRight_shiftLeft]

/-- For a count in the shifter's range the power of two is itself a wide value. -/
theorem shl128_eq_mul128 (a : Wide) {n : Nat} (hn : n < 128) : shl128 a n = mul128 a (.ofNat (2 ^ n)) := by
  have hfits : 2 ^ n < 2 ^ 128 := Nat.pow_lt_pow_right (by decide) hn
  apply Wide.toNat_inj
  rw [shl128_product, mul128_product, Wide.toNat_ofNat_of_lt hfits]

/-- Settles O49, law by law. -/
theorem shifterLaws : Obligations.ShifterLaws := fun a _ hn =>
  ⟨shl128_zero a, shr128_zero a, shl128_word a, shr128_word a, toBits_shr128_shl128 a _, shl128_eq_mul128 a hn⟩

end Sys2Proof.Machine

/-! SUPPORT and PROOFS. Faults (60_exceptions.md): what an accepted command commits and which of the three faults it takes, the
block after a fault, and the strict machine, whose runs rest on no unwritten register. -/

namespace Sys2Proof.Machine

/-! Unwritten registers (R166): every part of a step leads from states that agree but for their values to such states. -/

section Agreement

variable {s s' : State} (h : AgreeOnWritten s s')
include h

theorem AgreeOnWritten.unwritten_eq (o : Operand) : o.unwritten s' = o.unwritten s := by
  cases o with
  | reg r => simp only [Operand.unwritten, h.marks r]
  | din _ => rfl

theorem AgreeOnWritten.readsUnwritten_eq (i : Instr) : i.readsUnwritten s' = i.readsUnwritten s := by
  simp only [Instr.readsUnwritten, h.unwritten_eq]

theorem AgreeOnWritten.value_eq {o : Operand} (ho : o.unwritten s = false) : o.value s' = o.value s := by
  cases o with
  | reg r => exact h.values r (by simpa [Operand.unwritten] using ho)
  | din t => simp only [Operand.value, h.pins]

/-- A command that reads no unwritten register has the same effect in both states. -/
theorem AgreeOnWritten.effectIn_eq {i : Instr} (hi : i.readsUnwritten s = false) : effectIn i s' = effectIn i s := by
  obtain ⟨ha, hb⟩ := Bool.or_eq_false_iff.mp hi
  have hvalue : ∀ o : Option Operand, o.any (·.unwritten s) = false → o.map (·.value s') = o.map (·.value s) := by
    rintro (_ | o) ho
    · rfl
    · exact congrArg some (h.value_eq ho)
  simp only [effectIn, hvalue _ ha, hvalue _ hb, h.pins]

/-- A register written in both states is written and holds the same in both. -/
theorem AgreeOnWritten.setReg (r : Reg) (v : Wide) : AgreeOnWritten (s.setReg r v) (s'.setReg r v) :=
  { h with
    marks := fun q => by simp only [State.setReg_written, h.marks q]
    values := fun q hq => by
      rw [State.setReg_written] at hq
      rw [State.setReg_reg, State.setReg_reg]
      split at hq
      · simp only [*, if_true]
      · simp only [*, if_false, h.values q hq] }

theorem AgreeOnWritten.endCommand (done : Bool) : AgreeOnWritten (s.endCommand done) (s'.endCommand done) :=
  { h with status := by simp only [State.endCommand_status, h.status], inflight := rfl, done := rfl }

theorem AgreeOnWritten.setC (c : Bool) : AgreeOnWritten (s.setC c) (s'.setC c) :=
  { h with status := by simp only [State.setC, h.status] }

theorem AgreeOnWritten.setF (f : Bool) : AgreeOnWritten (s.setF f) (s'.setF f) :=
  { h with status := by simp only [State.setF, h.status] }

theorem AgreeOnWritten.setDout (hi lo : Word) : AgreeOnWritten (s.setDout hi lo) (s'.setDout hi lo) :=
  { h with doutHi := rfl, doutLo := rfl }

theorem AgreeOnWritten.raise (code : FCode) : AgreeOnWritten (s.raise code) (s'.raise code) :=
  { h with status := by simp only [State.raise_status, h.status], inflight := rfl, done := rfl }

theorem AgreeOnWritten.perform (e : Effect) : AgreeOnWritten (s.perform e) (s'.perform e) := by
  cases e with
  | wide rd v => exact (h.setReg rd v).endCommand true
  | wideCarry rd v c => exact ((h.setReg rd v).setC c).endCommand true
  | widePair rd v re u => exact ((h.setReg rd v).setReg re u).endCommand true
  | dout hi lo => exact (h.setDout hi lo).endCommand true
  | flagF b => exact (h.setF b).endCommand true
  | fault code => exact h.raise code

/-- The command in flight commits the values it latched. -/
theorem AgreeOnWritten.commit : AgreeOnWritten s.commit s'.commit := by
  unfold State.commit
  rw [h.inflight]
  cases s.inflight with
  | none => exact h.endCommand false
  | some f => exact h.perform f.effect

theorem AgreeOnWritten.hold : AgreeOnWritten s.hold s'.hold := { h with done := rfl }

/-- After a reset edge no register is written. -/
theorem AgreeOnWritten.resetEdge : AgreeOnWritten s.resetEdge s'.resetEdge where
  marks r := by simp only [State.resetEdge_written]
  values _ _ := rfl
  status := rfl
  doutHi := rfl
  doutLo := rfl
  inflight := rfl
  done := rfl
  pins := h.pins
  script := h.script

theorem AgreeOnWritten.hostNext : AgreeOnWritten s.hostNext s'.hostNext := by
  cases hs : s.script with
  | nil =>
    rw [State.hostNext_nil s hs, State.hostNext_nil s' (h.script.trans hs)]
    exact { h with pins := rfl }
  | cons p ps =>
    rw [State.hostNext_cons s p ps hs, State.hostNext_cons s' p ps (h.script.trans hs)]
    exact { h with pins := rfl, script := rfl }

/-- A command that the strict machine completes ends alike in both states. -/
theorem AgreeOnWritten.strictExec_next {i : Instr} {t : State} (hexec : strictExec i s = .next t) :
    ∃ t', strictExec i s' = .next t' ∧ AgreeOnWritten t t' := by
  unfold strictExec at hexec ⊢
  rw [h.readsUnwritten_eq]
  split_ifs at hexec ⊢ with hreads
  rw [exec_eq_perform] at hexec ⊢
  cases hexec
  rw [h.effectIn_eq (Bool.eq_false_iff.mpr hreads)]
  exact ⟨_, rfl, h.perform _⟩

/-- An accepted word is completed alike in both states, if the strict machine completes it. -/
theorem AgreeOnWritten.acceptAndRun_next {t : State} (hrun : acceptAndRun strictExec s = .next t) :
    ∃ t', acceptAndRun strictExec s' = .next t' ∧ AgreeOnWritten t t' := by
  unfold acceptAndRun at hrun ⊢
  rw [h.pins]
  cases hdecode : decode s.pins.cmd with
  | command i => exact h.strictExec_next (by simpa only [hdecode] using hrun)
  | illegal why =>
    simp only [hdecode] at hrun
    cases hrun
    exact ⟨_, rfl, h.raise .illegal⟩

/-- A safe step leads to states that agree: which case of a step it is, STATUS and the ports say. -/
theorem AgreeOnWritten.strictStep_next {t : State} (hstep : strictStep s = .next t) :
    ∃ t', strictStep s' = .next t' ∧ AgreeOnWritten t t' := by
  unfold strictStep runStep at hstep ⊢
  rw [h.pins, h.status]
  split_ifs at hstep ⊢
  · cases hstep
    exact ⟨_, rfl, h.resetEdge.hostNext⟩
  · cases hstep
    exact ⟨_, rfl, h.commit⟩
  · cases hstep
    exact ⟨_, rfl, h.hold.hostNext⟩
  · cases hstep
    exact ⟨_, rfl, h.hold⟩
  · cases hrun : acceptAndRun strictExec s with
    | next u =>
      rw [hrun] at hstep
      cases hstep
      obtain ⟨u', hrun', hagree⟩ := h.acceptAndRun_next hrun
      rw [hrun']
      exact ⟨_, rfl, hagree.hostNext⟩
    | fault r | refused r =>
      rw [hrun] at hstep
      cases hstep

end Agreement

/-- Settles O18, by induction on the number of steps. -/
theorem safeRunsIgnoreUnwrittenValues : Obligations.SafeRunsIgnoreUnwrittenValues := by
  intro k
  induction k with
  | zero =>
    rintro s s' t h rfl
    exact ⟨s', rfl, h⟩
  | succ k ih =>
    rintro s s' t h ⟨u, hstep, hrun⟩
    obtain ⟨u', hstep', hagree⟩ := h.strictStep_next hstep
    obtain ⟨t', hrun', hagree'⟩ := ih u u' t hagree hrun
    exact ⟨t', ⟨u', hstep', hrun'⟩, hagree'⟩

/-! What an accepted word commits: the effect the unit would latch (70_reset_and_hazards.md R189). -/

theorem latch_effect_of_illegal {s : State} {why : Illegal} (h : decode s.pins.cmd = .illegal why) :
    s.latch.effect = .fault .illegal := by
  simp only [InFlight.effect, State.latch, h]

theorem latch_effect_of_command {s : State} {i : Instr} (h : decode s.pins.cmd = .command i) :
    s.latch.effect = effectIn i s := by
  simp only [InFlight.effect, State.latch, h, effectIn, Decoded.toOption, Option.bind_some]

/-- An accepted legal word runs its command, and then the host drives what it has next. -/
theorem runStep_command (run : Instr → State → Result) {s : State} (hready : s.cmdReady = true)
    (hvalid : s.pins.cmdValid = true) {i : Instr} (hdecode : decode s.pins.cmd = .command i) :
    runStep run s = thenHostNext (run i s) := by
  obtain ⟨hrst, hbusy, hfault⟩ := s.cmdReady_iff.mp hready
  simp [runStep, acceptAndRun, hrst, hbusy, hvalid, hfault, hdecode]

theorem step_accepts {s : State} (hready : s.cmdReady = true) (hvalid : s.pins.cmdValid = true) :
    step s = .next (s.perform s.latch.effect).hostNext := by
  cases hdecode : decode s.pins.cmd with
  | illegal why =>
    rw [latch_effect_of_illegal hdecode]
    exact runStep_illegal exec hready hvalid hdecode
  | command i =>
    rw [latch_effect_of_command hdecode, step, runStep_command exec hready hvalid hdecode, exec_eq_perform]
    rfl

/-- Settles O7, by the cases of a step: a command that runs has its effect in every state. -/
theorem stepAlwaysAnswersNext : Obligations.StepAlwaysAnswersNext := by
  intro s
  obtain ⟨-, h⟩ | ⟨-, -, h⟩ | ⟨-, -, -, h⟩ | ⟨-, -, -, -, h⟩ | ⟨-, -, -, h⟩ | ⟨hready, hvalid, -⟩ := runStep_cases exec s
  case inr.inr.inr.inr.inr => exact ⟨_, step_accepts hready hvalid⟩
  all_goals exact ⟨_, h⟩

/-! The three faults (R160). -/

/-- An effect that is a fault under a condition, and none else, is that fault exactly then. -/
theorem ite_fault_eq_fault_iff {p : Prop} [Decidable p] {c code : FCode} {e : Effect} (he : e ≠ .fault code) :
    (if p then .fault c else e) = .fault code ↔ code = c ∧ p := by
  split
  case isTrue hp => simp [hp, eq_comm]
  case isFalse hp => simp [hp, he]

/-- The faults of a command some word encodes: DIV_ZERO and SHIFT_RANGE, each by its opcodes and its operand B. -/
theorem effectIn_eq_fault_iff {i : Instr} (hwf : i.wellFormed = true) (s : State) (code : FCode) :
    effectIn i s = .fault code ↔
      (code = .divZero ∧ ∃ b, i.operandB = some b ∧
        (i.opcode = 0x24#6 ∨ i.opcode = 0x25#6 ∨ i.opcode = 0x26#6) ∧ (b.value s).toNat = 0) ∨
      (code = .shiftRange ∧ ∃ b, i.operandB = some b ∧
        (i.opcode = 0x28#6 ∨ i.opcode = 0x29#6) ∧ 128 ≤ (b.value s).toNat) := by
  cases i
  case div rd a b | mod rd a b =>
    refine (ite_fault_eq_fault_iff Effect.noConfusion).trans ?_
    simp [Instr.operandB, Instr.opcode]
  case divmod rd re a b =>
    have hne : rd ≠ re := by simp_all [Instr.wellFormed]
    rw [show effectIn (.divmod rd re a b) s = _ from if_neg hne]
    refine (ite_fault_eq_fault_iff Effect.noConfusion).trans ?_
    simp [Instr.operandB, Instr.opcode]
  case shl rd a b | shr rd a b =>
    refine (ite_fault_eq_fault_iff Effect.noConfusion).trans ?_
    simp [Instr.operandB, Instr.opcode]
  all_goals exact iff_of_false Effect.noConfusion (by simp [Instr.opcode])

/-- The faults of an accepted word, each with its cause. -/
theorem latch_effect_eq_fault_iff (s : State) (code : FCode) :
    s.latch.effect = .fault code ↔
      (code = .illegal ∧ ∃ why, decode s.pins.cmd = .illegal why) ∨
      (code = .divZero ∧ ∃ i b, decode s.pins.cmd = .command i ∧ i.operandB = some b ∧
        (opField s.pins.cmd = 0x24#6 ∨ opField s.pins.cmd = 0x25#6 ∨ opField s.pins.cmd = 0x26#6) ∧
        (b.value s).toNat = 0) ∨
      (code = .shiftRange ∧ ∃ i b, decode s.pins.cmd = .command i ∧ i.operandB = some b ∧
        (opField s.pins.cmd = 0x28#6 ∨ opField s.pins.cmd = 0x29#6) ∧ 128 ≤ (b.value s).toNat) := by
  cases hdecode : decode s.pins.cmd with
  | illegal why => simp [latch_effect_of_illegal hdecode, eq_comm]
  | command i =>
    obtain ⟨hwf, hword⟩ := (decode_eq_command_iff _ i).mp hdecode
    simp [latch_effect_of_command hdecode, effectIn_eq_fault_iff hwf, hword.op]

/-- Out of a state with FCODE NONE, a commit leads to another code exactly when it takes that fault. -/
theorem perform_fcode_eq_iff {s : State} {e : Effect} {code : FCode} (hfcode : s.status.fcode = .none)
    (hcode : code ≠ .none) : (s.perform e).status.fcode = code ↔ e = .fault code := by
  cases e with
  | fault c => exact Effect.fault.injEq c code ▸ Iff.rfl
  | _ => exact iff_of_false (fun h => hcode (h.symm.trans hfcode)) Effect.noConfusion

/-- Out of a state without a fault, a commit leads to one where FAULT says whether FCODE is a fault's code. -/
theorem perform_fault_iff_fcode {s : State} {e : Effect} (he : e ≠ .fault .none) (hfault : s.status.fault = false)
    (hfcode : s.status.fcode = .none) : (s.perform e).status.fault = true ↔ (s.perform e).status.fcode ≠ .none := by
  obtain hended | ⟨code, rfl, hfaulted⟩ := perform_ended_or_faulted s e
  · rw [hended.fault, hended.fcode, hfault, hfcode]
    simp
  · rw [hfaulted.fcode]
    exact iff_of_true hfaulted.fault fun hcode => he (congrArg Effect.fault hcode)

/-- FCODE in STATUS tells the code (10_state.md R26). -/
theorem FCode.code_inj {c d : FCode} : c.code = d.code ↔ c = d := by
  cases c <;> cases d <;> decide

/-- Settles O15: FCODE in STATUS is the fault of the accepted word, if it has one. -/
theorem onlyThreeCausesOfFault : Obligations.OnlyThreeCausesOfFault := by
  intro s t hready hvalid hfcode hstep
  obtain ⟨-, -, hfault⟩ := s.cmdReady_iff.mp hready
  rw [step_accepts hready hvalid] at hstep
  obtain rfl := Host.Outcome.next.inj hstep
  obtain ⟨-, -, hfield, -⟩ := statusWordLayout (s.perform s.latch.effect).hostNext
  rw [hfield, State.hostNext_status]
  have hcode (code : FCode) (hne : code ≠ .none) :
      (s.perform s.latch.effect).status.fcode.code = code.code ↔ s.latch.effect = .fault code :=
    FCode.code_inj.trans (perform_fcode_eq_iff hfcode hne)
  refine ⟨(hcode .illegal nofun).trans ?illegal, (hcode .divZero nofun).trans ?divZero,
    (hcode .shiftRange nofun).trans ?shiftRange, ?noOther, ?fault⟩
  case illegal | divZero | shiftRange => simp [latch_effect_eq_fault_iff]
  case noOther => cases (s.perform s.latch.effect).status.fcode <;> decide
  case fault =>
    have hnone := FCode.code_inj (c := (s.perform s.latch.effect).status.fcode) (d := .none)
    exact (perform_fault_iff_fcode s.latch.effect_ne_fault_none hfault hfcode).trans (not_congr hnone).symm

/-! After a fault (R161, R168). -/

/-- A commit that raises FAULT is a faulted one, with a code. -/
theorem perform_faulted {s : State} {e : Effect} (he : e ≠ .fault .none) (hbefore : s.status.fault = false)
    (hafter : (s.perform e).status.fault = true) :
    Faulted s (s.perform e) (s.perform e).status.fcode ∧ (s.perform e).status.fcode ≠ .none := by
  obtain hended | ⟨code, rfl, hfaulted⟩ := perform_ended_or_faulted s e
  · rw [hended.fault, hbefore] at hafter
    cases hafter
  · rw [hfaulted.fcode]
    exact ⟨hfaulted, fun hcode => he (congrArg Effect.fault hcode)⟩

theorem sameUnit_hostNext (s : State) : SameUnit s s.hostNext := by
  constructor <;> simp

/-- Without reset, a faulted block holds its state on every edge. -/
theorem clockEdge_of_fault {s : State} (hfault : s.status.fault = true) (hbusy : s.status.busy = false) {p : Pins}
    (hrst : p.rst = false) : clockEdge p s = (s.drive p).hold := by
  obtain ⟨hr, -⟩ | ⟨-, hb, -⟩ | ⟨hready, -⟩ | ⟨-, -, -, hedge⟩ := clockEdge_cases p s
  · exact absurd hr (Bool.eq_false_iff.mp hrst)
  · exact absurd hb (Bool.eq_false_iff.mp hbusy)
  · obtain ⟨-, -, hf⟩ := (s.drive p).cmdReady_iff.mp hready
    exact absurd hfault (Bool.eq_false_iff.mp hf)
  · exact hedge

theorem clockEdges_status_of_fault {ps : List Pins} (hrst : ∀ p ∈ ps, p.rst = false) {s : State}
    (hfault : s.status.fault = true) (hbusy : s.status.busy = false) : (clockEdges ps s).status = s.status := by
  induction ps generalizing s with
  | nil => rfl
  | cons p ps ih =>
    obtain ⟨hp, hps⟩ := List.forall_mem_cons.mp hrst
    rw [clockEdges, clockEdge_of_fault hfault hbusy hp]
    exact ih hps hfault hbusy

theorem cmdReady_of_fault {s : State} (hfault : s.status.fault = true) : s.cmdReady = false := by
  simp [State.cmdReady, hfault]

/-- Settles O14: a command and an accepted word each commit an effect, which is never the fault NONE. -/
theorem faultingCommandWritesStatusOnly : Obligations.FaultingCommandWritesStatusOnly := by
  refine ⟨fun i s t hexec hbefore hafter => ?command, fun s t hready hvalid hstep hafter => ?step⟩
  case command =>
    rw [exec_eq_perform] at hexec
    cases hexec
    exact perform_faulted (effectOf_ne_fault_none _ _ _ _ _) hbefore hafter
  case step =>
    obtain ⟨-, -, hbefore⟩ := s.cmdReady_iff.mp hready
    rw [step_accepts hready hvalid] at hstep
    cases hstep
    have hstatus := State.hostNext_status (s.perform s.latch.effect)
    obtain ⟨hfaulted, hcode⟩ := perform_faulted s.latch.effect_ne_fault_none hbefore (hstatus ▸ hafter)
    refine ⟨⟨_, hfaulted, hcode, rfl, sameUnit_hostNext _⟩, hafter, fun ps hrst => cmdReady_of_fault ?_⟩
    rw [clockEdges_status_of_fault hrst hafter (hstatus ▸ hfaulted.busy)]
    exact hafter

/-! The strict machine (R165, R166). -/

/-- An accepted legal word reads an unwritten register. -/
def AcceptsUnwrittenRead (s : State) : Prop :=
  s.cmdReady = true ∧ s.pins.cmdValid = true ∧ ∃ i, decode s.pins.cmd = .command i ∧ i.readsUnwritten s = true

theorem strictStep_of_unwritten {s : State} (h : AcceptsUnwrittenRead s) : strictStep s = .fault .unwritten := by
  obtain ⟨hready, hvalid, i, hdecode, hreads⟩ := h
  rw [strictStep, runStep_command strictExec hready hvalid hdecode, (strictExec_unwritten_iff i s).mpr hreads]
  rfl

theorem strictStep_of_not_unwritten {s : State} (h : ¬ AcceptsUnwrittenRead s) : strictStep s = step s := by
  unfold strictStep step runStep acceptAndRun
  split_ifs with hrst hbusy hvalid hfault
  case neg =>
    cases hdecode : decode s.pins.cmd with
    | illegal why => rfl
    | command i =>
      have hready : s.cmdReady = true := by simp [State.cmdReady_iff, hrst, hbusy, hfault]
      have hreads : ¬ i.readsUnwritten s = true := fun hreads => h ⟨hready, by simpa using hvalid, i, hdecode, hreads⟩
      simp only [strictExec, if_neg hreads]
  all_goals rfl

theorem strictStep_unwritten_iff (s : State) : strictStep s = .fault .unwritten ↔ AcceptsUnwrittenRead s := by
  refine ⟨fun hstrict => ?_, strictStep_of_unwritten⟩
  by_contra h
  obtain ⟨t, hnext⟩ := stepAlwaysAnswersNext s
  rw [strictStep_of_not_unwritten h, hnext] at hstrict
  cases hstrict

/-- Settles O17: without such a read no command runs otherwise in the strict machine; with one, the step commits. -/
theorem strictStopsExactlyOnUnwrittenReads : Obligations.StrictStopsExactlyOnUnwrittenReads := by
  refine fun s => ⟨strictStep_unwritten_iff s, fun hnot => strictStep_of_not_unwritten (mt strictStep_of_unwritten hnot),
    fun hstops => ?_⟩
  obtain ⟨hready, hvalid, -⟩ := (strictStep_unwritten_iff s).mp hstops
  obtain ⟨hbusy, hinflight, -, -⟩ := perform_ends s s.latch.effect
  exact ⟨_, step_accepts hready hvalid, by rw [State.hostNext_status, hbusy], by rw [State.hostNext_inflight, hinflight]⟩

end Sys2Proof.Machine

/-! SUPPORT and PROOFS. Reset and hazards (70_reset_and_hazards.md): which edge is which, the busy interval from acceptance to
commit against the atomic step, waiting after a fault, and the end of a run. -/

namespace Sys2Proof.Machine

/-! What an edge does, by what is on the ports and in STATUS (R180, R181, R182). -/

theorem clockEdge_of_rst {p : Pins} (hrst : p.rst = true) (s : State) : clockEdge p s = (s.drive p).resetEdge := if_pos hrst

theorem clockEdge_of_busy {s : State} (hbusy : s.status.busy = true) {p : Pins} (hrst : p.rst = false) :
    clockEdge p s = (s.drive p).busyEdge := by
  rw [clockEdge, if_neg (Bool.eq_false_iff.mp hrst), if_pos hbusy]

theorem clockEdge_of_ready {s : State} {p : Pins} (hready : (s.drive p).cmdReady = true) (hvalid : p.cmdValid = true) :
    clockEdge p s = (s.drive p).accept := by
  obtain ⟨hrst, hbusy, -⟩ := (s.drive p).cmdReady_iff.mp hready
  rw [State.drive_pins] at hrst
  rw [State.drive_status] at hbusy
  simp [clockEdge, hrst, hbusy, hvalid, hready]

/-- Only an edge that finds the block BUSY can raise `done` (10_state.md R29). -/
theorem clockEdge_done_of_not_busy {s : State} (hbusy : s.status.busy = false) (p : Pins) : (clockEdge p s).done = false := by
  obtain ⟨-, hedge⟩ | ⟨-, hb, -⟩ | ⟨-, -, hedge⟩ | ⟨-, -, -, hedge⟩ := clockEdge_cases p s
  · rw [hedge, State.resetEdge_done]
  · exact absurd hb (Bool.eq_false_iff.mp hbusy)
  · rw [hedge, State.accept_done]
  · rw [hedge, State.hold_done]

/-! The state after reset (R180). -/

theorem resetEdge_statusWord (s : State) : s.resetEdge.statusWord = 0 := by
  rw [State.statusWord, State.resetEdge_status]
  rfl

/-- Settles O8: the edge is a reset edge, and after it the block is ready. -/
theorem resetEdgeMakesTheBlockFresh : Obligations.ResetEdgeMakesTheBlockFresh := by
  intro s p hrst
  rw [clockEdge_of_rst hrst]
  refine ⟨State.resetEdge_inflight _, resetEdge_statusWord _, State.resetEdge_doutHi _, State.resetEdge_doutLo _,
    State.resetEdge_written _, State.resetEdge_done _, ?notReady, fun p' hrst' hvalid' => ?accepts⟩
  case notReady => simp [State.cmdReady, hrst]
  case accepts =>
    have hready : ((s.drive p).resetEdge.drive p').cmdReady = true := (State.cmdReady_iff _).mpr ⟨hrst', rfl, rfl⟩
    rw [clockEdge_of_ready hready hvalid']
    exact ⟨_, State.accept_inflight _, rfl, rfl⟩

/-- Settles O9, field by field, as for a reset edge. -/
theorem resetStateHoldsTheSpecValues : Obligations.ResetStateHoldsTheSpecValues :=
  ⟨resetEdge_statusWord .reset, rfl, rfl, rfl, rfl, rfl, rfl, rfl, rfl, rfl, State.resetEdge_written .reset⟩

/-- Settles O10: the state after reset is the one a reset edge leads to from itself. -/
theorem resetMeetsTheInvariant : Obligations.ResetMeetsTheInvariant := inv_resetEdge .reset

/-! The latency (R183). -/

theorem isDivideOp_iff (op : BitVec 6) : isDivideOp op = true ↔ op = 0x24#6 ∨ op = 0x25#6 ∨ op = 0x26#6 := by
  simp [isDivideOp, or_assoc]

/-- LAT is at most the bound that its opcode selects (00_scope.md R7). -/
theorem latency_le (cmd : BitVec 32) (dinHi dinLo : Word) (a b : Option Wide) :
    latency cmd dinHi dinLo a b ≤ if isDivideOp (opField cmd) then Config.latDivMax else Config.latMax := by
  unfold latency Config.latDivMax Config.latMax
  split <;> omega

theorem latency_pos (cmd : BitVec 32) (dinHi dinLo : Word) (a b : Option Wide) : 1 ≤ latency cmd dinHi dinLo a b :=
  Nat.le_add_right 1 _

/-- Settles O51: the opcode selects the bound. -/
theorem latencyIsPositiveAndBounded : Obligations.LatencyIsPositiveAndBounded := by
  intro cmd dinHi dinLo a b
  have hle := latency_le cmd dinHi dinLo a b
  refine ⟨latency_pos cmd dinHi dinLo a b, fun hop => ?divide, fun hop => ?other⟩
  case divide => rwa [if_pos ((isDivideOp_iff _).mpr hop)] at hle
  case other => rwa [if_neg (mt (isDivideOp_iff _).mp hop)] at hle

/-! What a host can read, and the registers, through the edges that commit nothing (60_exceptions.md R175). -/

theorem SameResults.refl (s : State) : SameResults s s := ⟨rfl, rfl, rfl, rfl, rfl, rfl, rfl⟩

theorem SameResults.trans {s t u : State} (hst : SameResults s t) (htu : SameResults t u) : SameResults s u where
  regs := htu.regs.trans hst.regs
  f := htu.f.trans hst.f
  c := htu.c.trans hst.c
  fault := htu.fault.trans hst.fault
  fcode := htu.fcode.trans hst.fcode
  dout := ⟨htu.dout.1.trans hst.dout.1, htu.dout.2.trans hst.dout.2⟩

theorem sameResults_drive (s : State) (p : Pins) : SameResults s (s.drive p) := ⟨rfl, rfl, rfl, rfl, rfl, rfl, rfl⟩

theorem sameResults_accept (s : State) : SameResults s s.accept := ⟨rfl, rfl, rfl, rfl, rfl, rfl, rfl⟩

theorem sameResults_hold (s : State) : SameResults s s.hold := ⟨rfl, rfl, rfl, rfl, rfl, rfl, rfl⟩

/-- The host moving on changes nothing a host can read. -/
theorem sameResults_hostNext (s : State) : SameResults s s.hostNext := by
  constructor <;> simp [DoutKept]

/-- A commit overwrites BUSY, `done` and the command in flight, so it does not matter what they were. -/
theorem perform_endCommand (s : State) (done : Bool) (e : Effect) : (s.endCommand done).perform e = s.perform e := by
  cases e <;> rfl

theorem SameResults.endCommand_toBlock {s t : State} (h : SameResults s t) (done : Bool) :
    (t.endCommand done).toBlock = (s.endCommand done).toBlock := by
  obtain ⟨hregs, hf, hc, hfault, hfcode, hhi, hlo⟩ := h
  simp only [State.endCommand, hregs, hf, hc, hfault, hfcode, hhi, hlo]

/-- From states a host reads alike, a commit leads to the same block. -/
theorem SameResults.perform_toBlock {s t : State} (h : SameResults s t) (e : Effect) :
    (t.perform e).toBlock = (s.perform e).toBlock := by
  rw [← perform_endCommand s false, ← perform_endCommand t false]
  exact perform_toBlock_congr _ _ (h.endCommand_toBlock false) e

/-! Acceptance (R181). -/

/-- An ILLEGAL word reads no operand (30_encoding.md R57). -/
theorem latch_operands_of_illegal {s : State} {why : Illegal} (h : decode s.pins.cmd = .illegal why) :
    s.latch.a = none ∧ s.latch.b = none := by
  simp [State.latch, h, Decoded.toOption]

theorem latch_operands_of_command {s : State} {i : Instr} (h : decode s.pins.cmd = .command i) :
    s.latch.a = i.operandA.map (·.value s) ∧ s.latch.b = i.operandB.map (·.value s) := by
  simp [State.latch, h, Decoded.toOption]

/-- Settles O50: the edge is an acceptance edge; a later one commits the command or ticks its latency, and keeps its latch. -/
theorem acceptanceLatchesTheCommand : Obligations.AcceptanceLatchesTheCommand := by
  refine ⟨fun s p hready hvalid => ?accepts, fun s p f hrst hbusy hinflight => ?busy⟩
  case accepts =>
    rw [clockEdge_of_ready hready hvalid]
    exact ⟨(sameResults_drive s p).trans (sameResults_accept _), rfl, _, State.accept_inflight _, rfl, rfl, rfl,
      fun ⟨_, hillegal⟩ => latch_operands_of_illegal (s := s.drive p) hillegal,
      fun _ hcommand => latch_operands_of_command (s := s.drive p) hcommand⟩
  case busy =>
    refine ⟨by simp [State.cmdReady, hbusy], fun g hg => ?_⟩
    rw [clockEdge_of_busy hbusy hrst] at hg
    obtain ⟨-, hedge⟩ | ⟨-, hedge⟩ := busyEdge_cases (s.drive p) f hinflight
    · obtain ⟨-, hnone, -⟩ := perform_ends (s.drive p) f.effect
      rw [hedge, hnone] at hg
      cases hg
    · rw [hedge] at hg
      cases hg
      exact ⟨rfl, rfl, rfl, rfl, rfl⟩

/-! The busy interval (R182, R184). -/

/-- The block is BUSY with a command that commits `e` at the `left`th edge from `t`, and reads as it did in `s`. -/
structure Pending (e : Effect) (left : Nat) (s t : State) : Prop where
  results : SameResults s t
  busy : t.status.busy = true
  inflight : ∃ f, t.inflight = some f ∧ f.effect = e ∧ f.left = left

theorem pending_accept (s : State) : Pending s.latch.effect s.latch.left s s.accept where
  results := sameResults_accept s
  busy := rfl
  inflight := ⟨_, rfl, rfl, rfl⟩

theorem clockEdges_append (ps qs : List Pins) (s : State) : clockEdges (ps ++ qs) s = clockEdges qs (clockEdges ps s) := by
  induction ps generalizing s with
  | nil => rfl
  | cons p ps ih => exact ih (clockEdge p s)

section Busy

variable {e : Effect} {left : Nat} {s t : State} {p : Pins} {ps : List Pins}

/-- Before the commit edge, an edge leaves the command pending, one edge nearer; what it commits is in the latch. -/
theorem Pending.tick (h : Pending e (left + 1) s t) (hleft : 0 < left) (hrst : p.rst = false) :
    Pending e left s (clockEdge p t) := by
  obtain ⟨hresults, hbusy, f, hf, rfl, hfleft⟩ := h
  rw [clockEdge_of_busy hbusy hrst]
  obtain ⟨hdue, -⟩ | ⟨-, hedge⟩ := busyEdge_cases (t.drive p) f hf
  · omega
  · rw [hedge]
    have hticked : f.tick.left = left := by rw [InFlight.tick, hfleft, Nat.add_sub_cancel]
    exact ⟨hresults.trans ⟨rfl, rfl, rfl, rfl, rfl, rfl, rfl⟩, hbusy, _, rfl, rfl, hticked⟩

/-- The commit edge leaves the block as the commit out of the state of before. -/
theorem Pending.commit (h : Pending e 1 s t) (hrst : p.rst = false) :
    (clockEdge p t).toBlock = (s.perform e).toBlock := by
  obtain ⟨hresults, hbusy, f, hf, rfl, hfleft⟩ := h
  rw [clockEdge_of_busy hbusy hrst]
  obtain ⟨-, hedge⟩ | ⟨hnotDue, -⟩ := busyEdge_cases (t.drive p) f hf
  · rw [hedge]
    exact (hresults.trans (sameResults_drive t p)).perform_toBlock _
  · omega

theorem Pending.edges (h : Pending e (left + ps.length) s t) (hleft : 0 < left) (hrst : ∀ q ∈ ps, q.rst = false) :
    Pending e left s (clockEdges ps t) := by
  induction ps generalizing t with
  | nil => exact h
  | cons p ps ih =>
    obtain ⟨hp, hps⟩ := List.forall_mem_cons.mp hrst
    exact ih (h.tick (Nat.add_pos_left hleft _) hp) hps

/-- The last of the edges a command waits for is its commit edge. -/
theorem Pending.run (h : Pending e ps.length s t) (hne : ps ≠ []) (hrst : ∀ q ∈ ps, q.rst = false) :
    (clockEdges ps t).toBlock = (s.perform e).toBlock := by
  obtain ⟨qs, q, rfl⟩ := (List.eq_nil_or_concat' ps).resolve_left hne
  obtain ⟨hqs, hq⟩ := List.forall_mem_append.mp hrst
  rw [List.length_append, Nat.add_comm] at h
  rw [clockEdges_append]
  exact (h.edges Nat.one_pos hqs).commit (hq q (List.mem_singleton_self q))

end Busy

theorem sameUnit_of_toBlock {s t : State} (h : t.toBlock = s.toBlock) : SameUnit s t where
  regs := regs_of_toBlock h
  status := status_of_toBlock h
  doutHi := congrArg Block.doutHi h
  doutLo := congrArg Block.doutLo h
  inflight := inflight_of_toBlock h
  done := congrArg Block.done h

/-- What a step of a BUSY block does: whatever is in flight commits, and what the host drives stays. -/
theorem commit_ends (s : State) :
    s.commit.status.busy = false ∧ s.commit.pins = s.pins ∧ s.commit.script = s.script := by
  unfold State.commit
  split
  case h_1 f _ =>
    obtain ⟨hbusy, -, hpins, hscript⟩ := perform_ends s f.effect
    exact ⟨hbusy, hpins, hscript⟩
  case h_2 => exact ⟨rfl, rfl, rfl⟩

/-- Settles O52: the edges after acceptance leave the command pending, and the last of them commits what the step does. -/
theorem clockRunEqualsTheAtomicStep : Obligations.ClockRunEqualsTheAtomicStep := by
  refine ⟨fun s p ps hready hvalid hlength hrst => ?run, fun s t hrst hbusy hstep => ?busyStep⟩
  case run =>
    have hstart : Pending (s.drive p).latch.effect ps.length (s.drive p) (clockEdge p s) := by
      rw [clockEdge_of_ready hready hvalid, hlength]
      exact pending_accept _
    refine ⟨⟨_, step_accepts hready hvalid, ?committed⟩, fun j hj => ?waiting⟩
    case committed =>
      have hne : ps ≠ [] := List.ne_nil_of_length_pos (hlength ▸ latency_pos _ _ _ _ _)
      rw [clockEdges]
      exact sameUnit_of_toBlock ((hstart.run hne hrst).trans (State.hostNext_toBlock _).symm)
    case waiting =>
      have hsplit : ps.length = ps.length - j + (ps.take j).length := by
        rw [List.length_take_of_le hj.le, Nat.sub_add_cancel hj.le]
      rw [hsplit] at hstart
      have hpending := hstart.edges (Nat.sub_pos_of_lt hj) fun q hq => hrst q (List.mem_of_mem_take hq)
      exact ⟨hpending.busy, (sameResults_drive s p).trans hpending.results⟩
  case busyStep =>
    rw [step, runStep, if_neg (Bool.eq_false_iff.mp hrst), if_pos hbusy] at hstep
    cases hstep
    exact commit_ends s

/-! `done` (R182, 10_state.md R29). -/

/-- A busy edge commits, with `done` up unless it faults, or it ticks and leaves the block BUSY. -/
theorem Inv.busyEdge_done_iff {s : State} (h : Inv s) (hbusy : s.status.busy = true) :
    s.busyEdge.done = true ↔ s.busyEdge.status.busy = false ∧ s.busyEdge.status.fault = false := by
  obtain ⟨f, hf, -, hfault⟩ := h.inflight_some hbusy
  obtain ⟨-, hedge⟩ | ⟨-, hedge⟩ := busyEdge_cases s f hf
  · rw [hedge]
    obtain hended | ⟨code, -, hfaulted⟩ := perform_ended_or_faulted s f.effect
    · simp [hended.done, hended.busy, hended.fault, hfault]
    · simp [hfaulted.done, hfaulted.fault]
  · simp [hedge, hbusy]

theorem Inv.clockEdge_done_iff {s : State} (h : Inv s) (p : Pins) :
    (clockEdge p s).done = true ↔
      p.rst = false ∧ s.status.busy = true ∧ (clockEdge p s).status.busy = false ∧
        (clockEdge p s).status.fault = false := by
  cases hrst : p.rst with
  | true => simp [clockEdge_of_rst hrst]
  | false =>
    cases hbusy : s.status.busy with
    | false => simp [clockEdge_done_of_not_busy hbusy]
    | true =>
      have hdriven : Inv (s.drive p) := h.congr (State.drive_toBlock s p)
      simpa [clockEdge_of_busy hbusy hrst] using hdriven.busyEdge_done_iff hbusy

/-- Settles O53: after an edge that raised `done` the block is not BUSY, so the following edge does not raise it. -/
theorem doneMarksACommitWithoutFault : Obligations.DoneMarksACommitWithoutFault := by
  refine fun s p hinv => ⟨hinv.clockEdge_done_iff p, fun hdone q => ?low⟩
  obtain ⟨-, -, hbusy, -⟩ := (hinv.clockEdge_done_iff p).mp hdone
  exact clockEdge_done_of_not_busy hbusy q

/-! After a fault (R187). -/

/-- Without reset, the edges after a fault change nothing a host can read, and put nothing in flight. -/
theorem clockEdges_of_fault {ps : List Pins} (hrst : ∀ p ∈ ps, p.rst = false) {s : State} (hfault : s.status.fault = true)
    (hbusy : s.status.busy = false) :
    SameResults s (clockEdges ps s) ∧ (clockEdges ps s).inflight = s.inflight := by
  induction ps generalizing s with
  | nil => exact ⟨.refl s, rfl⟩
  | cons p ps ih =>
    obtain ⟨hp, hps⟩ := List.forall_mem_cons.mp hrst
    rw [clockEdges, clockEdge_of_fault hfault hbusy hp]
    obtain ⟨hresults, hinflight⟩ := ih hps (s := (s.drive p).hold) hfault hbusy
    exact ⟨((sameResults_drive s p).trans (sameResults_hold _)).trans hresults, hinflight⟩

/-- What a host offers after a fault waits (R187). -/
theorem step_of_fault {s : State} (hfault : s.status.fault = true) (hbusy : s.status.busy = false)
    (hrst : s.pins.rst = false) (hvalid : s.pins.cmdValid = true) : step s = .next s.hold := by
  simp [step, runStep, hfault, hbusy, hrst, hvalid]

theorem run_of_fault (n : Nat) {s : State} (hfault : s.status.fault = true) (hbusy : s.status.busy = false)
    (hrst : s.pins.rst = false) (hvalid : s.pins.cmdValid = true) :
    ∃ t, Host.Core.run Sys2Proof.core n s = .next t ∧ t.pins = s.pins ∧ t.script = s.script ∧ SameResults s t := by
  induction n generalizing s with
  | zero => exact ⟨s, rfl, rfl, rfl, .refl s⟩
  | succ n ih =>
    rw [run_next n s s.hold (step_of_fault hfault hbusy hrst hvalid)]
    obtain ⟨t, hrun, hpins, hscript, hresults⟩ := ih (s := s.hold) hfault hbusy hrst hvalid
    exact ⟨t, hrun, hpins, hscript, (sameResults_hold s).trans hresults⟩

/-- Settles O16: every edge and every step of a faulted block holds it, and the host goes on offering. -/
theorem offerAfterFaultWaitsForever : Obligations.OfferAfterFaultWaitsForever := by
  refine fun s hfault hbusy hinflight => ⟨fun ps hrst => ?edges, fun hrst hvalid n => run_of_fault n hfault hbusy hrst hvalid⟩
  obtain ⟨hresults, hkept⟩ := clockEdges_of_fault hrst hfault hbusy
  exact ⟨cmdReady_of_fault (hresults.fault.trans hfault), hresults, hkept.trans hinflight⟩

/-! The command-level step, and the end of a run (R189, R190). -/

/-- Settles O6: the answer is the command's, and the host moves on by its script. -/
theorem stepRunsTheDecodedCommand : Obligations.StepRunsTheDecodedCommand := by
  intro s t i hready hvalid hdecode hexec
  refine ⟨?step, sameUnit_hostNext t, fun hnil => ?scriptEnds, fun p ps hcons => ?scriptGoesOn⟩
  case step =>
    rw [step, runStep_command exec hready hvalid hdecode, hexec]
    rfl
  case scriptEnds =>
    rw [State.hostNext_nil t hnil]
    exact ⟨rfl, hnil⟩
  case scriptGoesOn =>
    rw [State.hostNext_cons t p ps hcons]
    exact ⟨rfl, rfl⟩

/-- What holds of idle ports and of all the host's script holds of what the host drives next, and of the rest. -/
theorem hostNext_forall {P : Pins → Prop} {s : State} (hidle : P .idle) (hscript : ∀ p ∈ s.script, P p) :
    P s.hostNext.pins ∧ ∀ p ∈ s.hostNext.script, P p := by
  cases hs : s.script with
  | nil =>
    rw [State.hostNext_nil s hs]
    exact ⟨hidle, hscript⟩
  | cons p ps =>
    rw [State.hostNext_cons s p ps hs]
    rw [hs, List.forall_mem_cons] at hscript
    exact hscript

theorem State.runEnded_iff (s : State) :
    s.runEnded = true ↔
      s.status.busy = false ∧
        (s.status.fault = true ∨ s.pins.cmdValid = false ∧ ∀ p ∈ s.script, p.cmdValid = false) := by
  simp [State.runEnded]

/-- The host of an ended run has nothing to offer, or finds the block faulted: so it still is after an idle edge. -/
theorem runEnded_hold_hostNext {s : State} (h : s.runEnded = true) : s.hold.hostNext.runEnded = true := by
  obtain ⟨hbusy, hended⟩ := s.runEnded_iff.mp h
  refine (State.runEnded_iff _).mpr ⟨by simp [hbusy], hended.imp (fun hfault => by simp [hfault]) ?_⟩
  rintro ⟨-, hscript⟩
  exact hostNext_forall (P := fun p => p.cmdValid = false) rfl hscript

/-- Settles O56: without reset, a step of an ended run is an idle edge or one waiting after a fault. -/
theorem endOfRunIsStable : Obligations.EndOfRunIsStable := by
  intro s t hended hrst hscript hstep
  obtain ⟨hbusy, hwhy⟩ := s.runEnded_iff.mp hended
  cases hvalid : s.pins.cmdValid with
  | false =>
    have hidle : step s = .next s.hold.hostNext := by simp [step, runStep, hrst, hbusy, hvalid]
    obtain rfl := Host.Outcome.next.inj (hidle.symm.trans hstep)
    exact ⟨(sameResults_hold s).trans (sameResults_hostNext _), by simp [hbusy], by simp, runEnded_hold_hostNext hended,
      hostNext_forall (P := fun p => p.rst = false) rfl hscript⟩
  | true =>
    have hfault : s.status.fault = true := hwhy.resolve_right fun ⟨hquiet, _⟩ => by simp [hvalid] at hquiet
    obtain rfl := Host.Outcome.next.inj ((step_of_fault hfault hbusy hrst hvalid).symm.trans hstep)
    exact ⟨sameResults_hold s, hbusy, rfl, hended, hrst, hscript⟩

end Sys2Proof.Machine
